-- ==== Sys2Proof/Word.lean ====
section
/-! DEFINITION. Word.lean: the two bit-vector types of the block (00_scope.md R12, R14, R15): the byte that every
operand, ROM entry and wire byte is, and the 19-bit command word. All values are unsigned. -/

namespace Sys2Proof

/-- A byte: `W` = 8 bits (R12). -/
abbrev Byte := BitVec 8

/-- The word on `cmd_word` (R80): 19 bits. -/
abbrev CommandWord := BitVec 19

end Sys2Proof
end

