-- ==== Sys2Proof/Syntax.lean ====
section
/-! DEFINITION. Syntax.lean: the instructions. One constructor of `Instr` per row of spec/opcode_table.json: eight host
commands (30_encoding.md R83), eight micro-ops of the sequencer (R90), four classes of byte on the wire (R86 to R89,
42_control_commands.md R150). -/

namespace Sys2Proof

/-- The eight micro-ops of the sequencer (40_pin_microops.md R110), the elements of a micro-op list (00_scope.md R17). -/
inductive MicroOp where
  /-- `CLK_O <- 0` (R111). -/
  | clkLo
  /-- `CLK_O <- 1` (R112). -/
  | clkHi
  /-- `DIO_O <- 0` (R113). -/
  | dioLo
  /-- `DIO_O <- 1` (R114). -/
  | dioHi
  /-- `CLK_OE <- 1` (R115). -/
  | clkOut
  /-- `DIO_OE <- 1` (R116). -/
  | dioOut
  /-- `DIO_OE <- 0` (R117). -/
  | dioIn
  /-- Sample `dio_i` (R118). -/
  | dioRd
  deriving DecidableEq, Repr

/-- A pin micro-op writes a pin register and is followed by a delay: every micro-op but `DIO_RD` (R110, R119). -/
def MicroOp.isPin : MicroOp → Bool
  | .clkLo | .clkHi | .dioLo | .dioHi | .clkOut | .dioOut | .dioIn => true
  | .dioRd => false

/-- An instruction: one constructor per row of the opcode table. A command carries both operand fields, the ignored
ones too, because acceptance latches them whatever they hold (R85). -/
inductive Instr where
  /-- `INIT a, b`: `a` enable (boolean), `b` brightness (R151). -/
  | init (a b : Byte)
  /-- `ENABLE a`: `a` value (boolean), `b` ignored (R152). -/
  | enable (a b : Byte)
  /-- `SET_BRIGHTNESS a`: `a` brightness (raw byte), `b` ignored (R153). -/
  | setBrightness (a b : Byte)
  /-- `DISPLAY_SEGMENTS a, b`: `a` position, `b` pattern (R161). -/
  | displaySegments (a b : Byte)
  /-- `DISPLAY_DIGIT a, b`: `a` position, `b` digit (R162). -/
  | displayDigit (a b : Byte)
  /-- `DISPLAY_COLON a`: `a` value (boolean), `b` ignored (R163). -/
  | displayColon (a b : Byte)
  /-- `CLEAR`: both fields ignored (R164). -/
  | clear (a b : Byte)
  /-- `RSVD7`: the reserved opcode, both fields ignored (R165). -/
  | rsvd7 (a b : Byte)
  /-- Micro-op `CLK_LO` (R111). -/
  | clkLo
  /-- Micro-op `CLK_HI` (R112). -/
  | clkHi
  /-- Micro-op `DIO_LO` (R113). -/
  | dioLo
  /-- Micro-op `DIO_HI` (R114). -/
  | dioHi
  /-- Micro-op `CLK_OUT` (R115). -/
  | clkOut
  /-- Micro-op `DIO_OUT` (R116). -/
  | dioOut
  /-- Micro-op `DIO_IN` (R117). -/
  | dioIn
  /-- Micro-op `DIO_RD` (R118). -/
  | dioRd
  /-- Wire byte `CMD_DATA`, exactly 0x40 (R86). -/
  | cmdData
  /-- Wire byte `ADDR`: 0xC0 with `p` in bits 5 to 0 (R87). -/
  | addr (p : BitVec 6)
  /-- Wire byte `CTL`: 0x80 with `v` in bits 6 to 0 (R88, R150); bit 3 of `v` is the on flag. -/
  | ctl (v : BitVec 7)
  /-- Wire byte `SEGDATA`: the segment pattern itself (R89). -/
  | segdata (v : Byte)
  deriving DecidableEq, Repr

/-- The instruction that a micro-op is. -/
def MicroOp.toInstr : MicroOp → Instr
  | .clkLo => .clkLo
  | .clkHi => .clkHi
  | .dioLo => .dioLo
  | .dioHi => .dioHi
  | .clkOut => .clkOut
  | .dioOut => .dioOut
  | .dioIn => .dioIn
  | .dioRd => .dioRd

end Sys2Proof
end

