-- ==== Sys2Proof/WellFormed.lean ====
section
/-! DEFINITION. WellFormed.lean: which instructions are well formed. The fields' types already bound every operand; the
one relation left to check is that a display-control byte stays in its own class. -/

namespace Sys2Proof

/-- A well-formed instruction. A `CTL` byte with bit 6 set has bits 7:6 = 0b11, the class of the address bytes, so on
the wire it is read as `ADDR` (93_implementation_defined.md U2: "one with bit 6 set turns the byte into the address
class"); every other instruction is well formed for every operand (30_encoding.md R82: no operand is checked). -/
def Instr.wellFormed : Instr → Bool
  | .ctl v => !v.getLsbD 6
  | .init _ _ | .enable _ _ | .setBrightness _ _ | .displaySegments _ _ | .displayDigit _ _ | .displayColon _ _
  | .clear _ _ | .rsvd7 _ _ => true
  | .clkLo | .clkHi | .dioLo | .dioHi | .clkOut | .dioOut | .dioIn | .dioRd => true
  | .cmdData | .addr _ | .segdata _ => true

end Sys2Proof
end

