-- ==== Sys2Proof/Decode.lean ====
section
/-! DEFINITION. Decode.lean: from bits to instructions and back. The block has three code spaces (30_encoding.md §§1 to
3): the command port (19 bits), the sequencer's micro-op codes (4 bits) and the bytes on the wire (8 bits), where the
first byte of a transaction is read by its class and the later ones as data (20_memory.md R65). -/

namespace Sys2Proof

/-- Where a code stands; it decides how its bits are read. -/
inductive CodeSpace where
  /-- The word on `cmd_word` (R80). -/
  | command
  /-- A micro-op code of the sequencer (R90). -/
  | microOp
  /-- The first byte of a transaction (R95, R65). -/
  | wireFirst
  /-- A later byte of a transaction (R89, R65). -/
  | wireLater
  deriving DecidableEq, Repr

/-- The width of a code in bits (R91, R90, R12). -/
def CodeSpace.width : CodeSpace → Nat
  | .command => 19
  | .microOp => 4
  | .wireFirst => 8
  | .wireLater => 8

/-- Why the decoder rejects a code. -/
inductive DecodeReject where
  /-- A set bit above the width of the code space: no such code exists. -/
  | tooWide
  /-- A micro-op code 0x8 to 0xF: unused, never produced (R90). -/
  | unusedMicroOp
  /-- A first byte with bits 7:6 = 0b01 other than 0x40: a data command the block never sends (R86). -/
  | otherDataCommand
  /-- A first byte with bits 7:6 = 0b00: no class of command (R65). -/
  | noWireClass
  deriving DecidableEq, Repr

/-- What the decoder answers. -/
inductive Decoded where
  /-- The instruction. -/
  | instr (i : Instr)
  /-- Rejected, by name. -/
  | reject (r : DecodeReject)
  deriving DecidableEq, Repr

/-- Field `op` of a command word, bits 18:16 (R80). -/
def opField (w : CommandWord) : BitVec 3 := w.extractLsb' 16 3

/-- Field `a` of a command word, bits 15:8 (R80). -/
def aField (w : CommandWord) : Byte := w.extractLsb' 8 8

/-- Field `b` of a command word, bits 7:0 (R80). -/
def bField (w : CommandWord) : Byte := w.extractLsb' 0 8

/-- The command a 19-bit word is (R83): every word is one, none is illegal (R84). -/
def decodeCommand (w : CommandWord) : Instr :=
  match (opField w).toNat with
  | 0 => .init (aField w) (bField w)
  | 1 => .enable (aField w) (bField w)
  | 2 => .setBrightness (aField w) (bField w)
  | 3 => .displaySegments (aField w) (bField w)
  | 4 => .displayDigit (aField w) (bField w)
  | 5 => .displayColon (aField w) (bField w)
  | 6 => .clear (aField w) (bField w)
  | _ => .rsvd7 (aField w) (bField w)

/-- The micro-op of a 4-bit code (R90); codes 0x8 to 0xF are unused. -/
def decodeMicroOp (c : BitVec 4) : Decoded :=
  match c.toNat with
  | 0 => .instr .clkLo
  | 1 => .instr .clkHi
  | 2 => .instr .dioLo
  | 3 => .instr .dioHi
  | 4 => .instr .clkOut
  | 5 => .instr .dioOut
  | 6 => .instr .dioIn
  | 7 => .instr .dioRd
  | _ => .reject .unusedMicroOp

/-- The first byte of a transaction, classed by bits 7:6 (R65). -/
def decodeWireFirst (v : Byte) : Decoded :=
  match (v.extractLsb' 6 2).toNat with
  | 1 => if v = 0x40#8 then .instr .cmdData else .reject .otherDataCommand
  | 2 => .instr (.ctl (v.extractLsb' 0 7))
  | 3 => .instr (.addr (v.extractLsb' 0 6))
  | _ => .reject .noWireClass

/-- A byte of a transaction: the first by its class, a later one as segment data (R65, R89). -/
def decodeWire (first : Bool) (v : Byte) : Decoded :=
  if first then decodeWireFirst v else .instr (.segdata v)

/-- The decoder, total on any code space and any number. -/
def decode (sp : CodeSpace) (w : Nat) : Decoded :=
  if w < 2 ^ sp.width then
    match sp with
    | .command => .instr (decodeCommand (BitVec.ofNat 19 w))
    | .microOp => decodeMicroOp (BitVec.ofNat 4 w)
    | .wireFirst => decodeWire true (BitVec.ofNat 8 w)
    | .wireLater => decodeWire false (BitVec.ofNat 8 w)
  else .reject .tooWide

/-- An answer of the decoder as an option. -/
def decodedInstr : Decoded → Option Instr
  | .instr i => some i
  | .reject _ => none

/-- The code space of an instruction. -/
def codeSpace : Instr → CodeSpace
  | .init _ _ | .enable _ _ | .setBrightness _ _ | .displaySegments _ _ | .displayDigit _ _ | .displayColon _ _
  | .clear _ _ | .rsvd7 _ _ => .command
  | .clkLo | .clkHi | .dioLo | .dioHi | .clkOut | .dioOut | .dioIn | .dioRd => .microOp
  | .cmdData | .addr _ | .ctl _ => .wireFirst
  | .segdata _ => .wireLater

/-- A command word assembled from its fields, `CW = op * 65536 + a * 256 + b` (R80). -/
def commandWord (op : BitVec 3) (a b : Byte) : CommandWord :=
  op.setWidth 19 <<< 16 ||| a.setWidth 19 <<< 8 ||| b.setWidth 19

/-- The address byte `0xC0 | A` (R87). -/
def addrByte (a : Byte) : Byte := 0xC0#8 ||| a

/-- The encoder: the code of an instruction in its code space (R83, R90, R86 to R89). -/
def encode : Instr → Nat
  | .init a b => (commandWord 0 a b).toNat
  | .enable a b => (commandWord 1 a b).toNat
  | .setBrightness a b => (commandWord 2 a b).toNat
  | .displaySegments a b => (commandWord 3 a b).toNat
  | .displayDigit a b => (commandWord 4 a b).toNat
  | .displayColon a b => (commandWord 5 a b).toNat
  | .clear a b => (commandWord 6 a b).toNat
  | .rsvd7 a b => (commandWord 7 a b).toNat
  | .clkLo => 0x0
  | .clkHi => 0x1
  | .dioLo => 0x2
  | .dioHi => 0x3
  | .clkOut => 0x4
  | .dioOut => 0x5
  | .dioIn => 0x6
  | .dioRd => 0x7
  | .cmdData => 0x40
  | .addr p => (addrByte (p.setWidth 8)).toNat
  | .ctl v => (0x80#8 ||| v.setWidth 8).toNat
  | .segdata v => v.toNat

/-- The `mask` of an instruction's row of spec/opcode_table.json (R83: 0x70000 for every command). -/
def rowMask : Instr → Nat
  | .init _ _ | .enable _ _ | .setBrightness _ _ | .displaySegments _ _ | .displayDigit _ _ | .displayColon _ _
  | .clear _ _ | .rsvd7 _ _ => 0x70000
  | .clkLo | .clkHi | .dioLo | .dioHi | .clkOut | .dioOut | .dioIn | .dioRd => 0xF
  | .cmdData => 0xFF
  | .addr _ => 0xC0
  | .ctl _ => 0x80
  | .segdata _ => 0x00

/-- The `match` of an instruction's row of spec/opcode_table.json (R83, R90, R86 to R89). -/
def rowMatch : Instr → Nat
  | .init _ _ => 0x00000
  | .enable _ _ => 0x10000
  | .setBrightness _ _ => 0x20000
  | .displaySegments _ _ => 0x30000
  | .displayDigit _ _ => 0x40000
  | .displayColon _ _ => 0x50000
  | .clear _ _ => 0x60000
  | .rsvd7 _ _ => 0x70000
  | .clkLo => 0x0
  | .clkHi => 0x1
  | .dioLo => 0x2
  | .dioHi => 0x3
  | .clkOut => 0x4
  | .dioOut => 0x5
  | .dioIn => 0x6
  | .dioRd => 0x7
  | .cmdData => 0x40
  | .addr _ => 0xC0
  | .ctl _ => 0x80
  | .segdata _ => 0x00

/-- The code space in which a number of `nbits` bits is read when only the opcode table says what it is. DESIGN CHOICE
(log 12): the table has one column of bits for three code spaces, so more than eight bits is a command word; at most
eight bits below 0x10 is a micro-op code, since no wire command byte is below 0x40 (R86 to R88); any other byte in the
class of a wire command is that command, and a byte in no class is segment data. -/
def tableSpace (nbits w : Nat) : CodeSpace :=
  if 8 < nbits then .command
  else if nbits ≤ 4 ∨ w < 0x10 then .microOp
  else if w = 0x40 ∨ 0x80 ≤ w then .wireFirst
  else .wireLater

/-- The instruction the decoder reads from a word of the opcode table. -/
def decodeTableWord (nbits w : Nat) : Option Instr := decodedInstr (decode (tableSpace nbits w) w)

end Sys2Proof
end

