-- ==== Sys2Proof/Config.lean ====
section
/-! DEFINITION. Config.lean: what an implementation fixes (00_scope.md R6 to R13), one sample of the input ports
(10_state.md R31), and the free inputs. -/

namespace Sys2Proof

/-- `POSITION_MAX`: the number of display positions (R7). -/
def Config.positionMax : Nat := 4

/-- `BRIGHTNESS_MAX`: the largest documented brightness; nothing enforces it (R8). -/
def Config.brightnessMax : Nat := 7

/-- The parameters of the step relation (R32): what the spec leaves to the implementation as a value. -/
structure Params where
  /-- `SEGROM`: sixteen segment patterns (R10). -/
  segrom : Vector Byte 16
  /-- `DELAY_US`: the least length of a delay in microseconds (R6). -/
  delayUs : Nat
  /-- `RESET_EN` (R13). -/
  resetEn : Bool
  /-- `RESET_BRT` (R13). -/
  resetBrt : Byte
  deriving DecidableEq, Repr

/-- What the input ports of R31 carry at one rising clock edge, and the levels the environment puts on lines the block
does not drive (`env_clk`, `env_dio` of R24), from which `dio_i` follows. -/
structure Inputs where
  /-- Port `rst`. -/
  rst : Bool
  /-- Port `cmd_valid`. -/
  cmdValid : Bool
  /-- Port `cmd_word`. -/
  cmdWord : CommandWord
  /-- `env_clk`: the level of an undriven CLOCK line. -/
  envClk : Bool
  /-- `env_dio`: the level of an undriven DATA line. -/
  envDio : Bool
  /-- Port `dly_done`. -/
  dlyDone : Bool
  deriving DecidableEq, Repr, Inhabited

/-- The FREE INPUTS: what the input ports carry at the n-th edge where State gives no sample. Nothing constrains them
(20_memory.md R61 "either level, under no law"; 93_implementation_defined.md U3, U4, U10; log 2). -/
opaque Config.freeInputs : Nat → Inputs

end Sys2Proof
end

