-- ==== Sys2Proof/Machine/SegRom.lean ====
section
/-! DEFINITION. Machine/SegRom.lean: the segment lookup ROM (20_memory.md R51, R52) and the default parameters. -/

namespace Sys2Proof.Machine

/-- The default contents of `SEGROM` (R52). PRESUMED (log 7): the spec itself takes them from general knowledge (G1). -/
def segRomDefault : Vector Byte 16 :=
  #v[0x3F#8, 0x06#8, 0x5B#8, 0x4F#8, 0x66#8, 0x6D#8, 0x7D#8, 0x07#8,
     0x7F#8, 0x6F#8, 0x77#8, 0x7C#8, 0x39#8, 0x5E#8, 0x79#8, 0x71#8]

/-- The default parameters: R52, `DELAY_US` = 5 (R6), `RESET_EN` = 0, `RESET_BRT` = 0x00 (R13). -/
def defaultParams : Params :=
  { segrom := segRomDefault, delayUs := 5, resetEn := false, resetBrt := 0x00#8 }

/-- `MemRead(SEGROM, i, 1)` at a 4-bit index (R19, R51): total, no side effect. -/
def romRead (p : Params) (i : BitVec 4) : Byte := p.segrom[i.toNat]'i.isLt

end Sys2Proof.Machine
end

