-- ==== Sys2Proof/Machine/State.lean ====
section
/-! DEFINITION. Machine/State.lean: everything the machine holds. The block's fourteen registers (10_state.md R20); beside
them, in records of their own, the environment of the block, the wire observer (20_memory.md R64) and the reference
receiver (R65), none of which is part of the block (log 1). -/

namespace Sys2Proof.Machine

/-- The state of the block: exactly the fourteen registers of R20. -/
structure Regs where
  /-- `EN`: the held on/off flag (R21). -/
  en : Bool
  /-- `BRT`: the held brightness, stored exactly as given (R21, R22). -/
  brt : Byte
  /-- `CLK_O`: output latch of CLOCK (R23). -/
  clkO : Bool
  /-- `CLK_OE`: output enable of CLOCK (R23). -/
  clkOe : Bool
  /-- `DIO_O`: output latch of DATA (R23). -/
  dioO : Bool
  /-- `DIO_OE`: output enable of DATA (R23). -/
  dioOe : Bool
  /-- `ACK_LAST`: the level sampled last, 0 = acknowledged (R25). -/
  ackLast : Bool
  /-- `NACK_ANY`: some byte of the command was not acknowledged (R26). -/
  nackAny : Bool
  /-- `BUSY`: a command is in progress (R27). -/
  busy : Bool
  /-- `OP`: latched opcode (R28). -/
  op : BitVec 3
  /-- `A`: latched first operand (R28). -/
  a : Byte
  /-- `B`: latched second operand (R28). -/
  b : Byte
  /-- `UPC`: index of the next micro-op (R29). -/
  upc : BitVec 10
  /-- `DLY`: a delay is running (R30). -/
  dly : Bool
  deriving DecidableEq, Repr

/-- An event of a trace (00_scope.md R18). -/
inductive Event where
  /-- `Pin(u)`: a pin micro-op wrote its register. -/
  | pin (u : MicroOp)
  /-- `Wait`: one completed delay of at least `DELAY_US`. -/
  | wait
  /-- `Sample(v)`: a `DIO_RD` that read level `v`. -/
  | sample (v : Bool)
  deriving DecidableEq, Repr

/-- A pair of line levels `(CLK_LINE, DIO_LINE)` (R24, R64). -/
structure Lines where
  /-- `CLK_LINE`. -/
  clk : Bool
  /-- `DIO_LINE`. -/
  dio : Bool
  deriving DecidableEq, Repr

/-- The wire observer `Decode` (R64): the last pair of line levels it saw and its own state. -/
structure Observer where
  /-- The pair after the last event; none before the first event. -/
  prev : Option Lines
  /-- `open`: a transaction is open. -/
  inTxn : Bool
  /-- `bits`: the bits of the unfinished byte, first sent first. -/
  bits : List Bool
  /-- `k`: rising CLOCK edges in the open transaction. -/
  k : Nat
  /-- `bytes`: the finished bytes of the open transaction. -/
  bytes : List Byte
  /-- `out`: the closed transactions. -/
  out : List (List Byte)
  deriving DecidableEq, Repr

/-- The reference receiver (R65): its display registers, `MODE`, `CTRL`, and its place in the transaction it is taking.
A transaction is taken whole in the step that closes it, so between the steps of a run from reset `todo` is empty and
`ptr` is none (log 4). -/
structure Receiver where
  /-- `DISP[0..3]` as cells (position, byte) of rising positions; an unlisted position is unwritten. -/
  disp : List Host.Cell
  /-- `MODE`, initially unwritten. -/
  mode : Option Byte
  /-- `CTRL`, initially unwritten. -/
  ctrl : Option Byte
  /-- The bytes of the current transaction it has not yet taken, the next first. -/
  todo : List Byte
  /-- `p` of an address byte already taken from the current transaction; none at its start. -/
  ptr : Option Nat
  /-- The receiver has refused: no claim about its contents covers this run (R65, U1, U2). -/
  refused : Bool
  /-- The receiver is on the wire and answers every acknowledgement slot with 0 (R65); if not, the level there is the
  environment's (R61, log 22). -/
  answers : Bool
  deriving DecidableEq, Repr

/-- The machine: the block, its parameters (R32), its environment, the observer and the receiver. -/
structure State where
  /-- The block's registers (R20). -/
  regs : Regs
  /-- The parameters of the step relation; no step writes them (R32, log 16). -/
  params : Params
  /-- The samples of the input ports at the coming edges, the next first; beyond them they are free (log 2). -/
  script : List Inputs
  /-- The model's own count of edges, the index of the free inputs (log 2). -/
  tick : Nat
  /-- The trace since the last reset (R18, R123, log 10). -/
  trace : List Event
  /-- The wire observer (R64). -/
  obs : Observer
  /-- The reference receiver (R65). -/
  rx : Receiver
  deriving DecidableEq, Repr

/-- The block raises no fault (60_exceptions.md R180: "It never faults and never refuses a command word"), so there is
no reason for one: an empty type, which no step can answer with. Nobody raises it; that is safe. -/
inductive Fault : Type
  deriving DecidableEq, Repr

/-- Why a step refuses. -/
inductive Refusal where
  /-- An instruction whose meaning is not modelled yet; raised by an arm of `exec`, of which there is none left
  (safe: the model stops where the block goes on). -/
  | notModelled (mnemonic : String)
  deriving DecidableEq, Repr

/-- The registers in reset (R34): all zero but `ACK_LAST` = 1, and `EN`, `BRT` at their parameters (R13). -/
def resetRegs (p : Params) : Regs :=
  { en := p.resetEn, brt := p.resetBrt, clkO := false, clkOe := false, dioO := false, dioOe := false,
    ackLast := true, nackAny := false, busy := false, op := 0, a := 0, b := 0, upc := 0, dly := false }

/-- The observer before any event: R64's initial values. It has seen no pair yet; the pair before the first event is
what the lines carry when that event comes (R24, R64, log 9). -/
def startObserver : Observer :=
  { prev := none, inTxn := false, bits := [], k := 0, bytes := [], out := [] }

/-- The receiver before any transaction: every cell unwritten (R65, U6). -/
def startReceiver : Receiver :=
  { disp := [], mode := none, ctrl := none, todo := [], ptr := none, refused := false, answers := false }

/-- The machine right after reset (R34, R200), default parameters, no sample of the inputs chosen. -/
def State.reset : State :=
  { regs := resetRegs defaultParams, params := defaultParams, script := [], tick := 0, trace := [],
    obs := startObserver, rx := startReceiver }

end Sys2Proof.Machine
end

