-- ==== Sys2Proof/Machine/Operands.lean ====
section
/-! DEFINITION. Machine/Operands.lean: the treatments of an operand field (30_encoding.md R82) and the bytes they make
(R87, R88, 42_control_commands.md R150). Nothing is sign-extended, scaled, clamped or checked. -/

namespace Sys2Proof.Machine

/-- (a) A boolean operand: `bool(v)` is 1 when `v` is not zero (R16, R82). -/
def boolOperand (v : Byte) : Bool := v != 0#8

/-- (b) A raw byte OR'd into a wire byte: used whole (R82). -/
def rawOperand (v : Byte) : Byte := v

/-- (c) A raw byte sent as is (R82, R89). -/
def patternOperand (v : Byte) : Byte := v

/-- (d) A masked index: `v & 0x0F`, the four low bits (R82, R51). -/
def indexOperand (v : Byte) : BitVec 4 := (v &&& 0x0F#8).setWidth 4

/-- The pattern `DISPLAY_COLON` writes: `value ? 0xFF : 0x00` (R11, R163). -/
def colonPattern (v : Byte) : Byte := if boolOperand v then 0xFF#8 else 0x00#8

/-- `CTL(en, brt) = 0x80 | (en ? 0x08 : 0x00) | brt` (R150; C1, C2 and C6 of 90_conflicts.md). -/
def ctlByte (en : Bool) (brt : Byte) : Byte := 0x80#8 ||| (if en then 0x08#8 else 0x00#8) ||| rawOperand brt

end Sys2Proof.Machine
end

