-- ==== Sys2Proof/Machine/Expand.lean ====
section
/-! DEFINITION. Machine/Expand.lean: the micro-op lists of the serial transmitter (41_framing_and_byte_tx.md), of the
commands' sub-lists (42 R154, 43 R160) and `Expand` itself (40_pin_microops.md R122). -/

namespace Sys2Proof.Machine

/-- `START()` (R130): relies on the idle state. -/
def startList : List MicroOp := [.dioLo]

/-- `STOP()` (R131). -/
def stopList : List MicroOp := [.dioLo, .clkHi, .dioHi]

/-- `BIT(v)` (R132). -/
def bitList (v : Bool) : List MicroOp := [.clkLo, if v then .dioHi else .dioLo, .clkHi]

/-- `ACKSLOT()` (R133). -/
def ackSlot : List MicroOp := [.clkLo, .dioIn, .clkHi, .dioRd, .clkLo, .dioOut]

/-- `SEND_BYTE(b)` (R134): bit 0 first (R54), then the acknowledgement slot. -/
def sendByte (b : Byte) : List MicroOp :=
  bitList (b.getLsbD 0) ++ bitList (b.getLsbD 1) ++ bitList (b.getLsbD 2) ++ bitList (b.getLsbD 3)
    ++ bitList (b.getLsbD 4) ++ bitList (b.getLsbD 5) ++ bitList (b.getLsbD 6) ++ bitList (b.getLsbD 7) ++ ackSlot

/-- `TXN(bs)` (R135). -/
def txn (bs : List Byte) : List MicroOp := startList ++ bs.flatMap sendByte ++ stopList

/-- `LINES_INIT()` (R154). -/
def linesInit : List MicroOp := [.clkHi, .clkOut, .dioHi, .dioOut]

/-- `DSEG(p, s, en, brt)` (R160): data command, addressed write, display control; the last is always sent (R166). -/
def dseg (p s : Byte) (en : Bool) (brt : Byte) : List MicroOp :=
  txn [0x40#8] ++ txn [addrByte (rawOperand p), patternOperand s] ++ txn [ctlByte en brt]

/-- `Expand(op, a, b, en, brt)` (R122), a pure function of its arguments and `SEGROM`. -/
def expand (prm : Params) (op : BitVec 3) (a b : Byte) (en : Bool) (brt : Byte) : List MicroOp :=
  match op.toNat with
  | 0 => linesInit ++ txn [ctlByte en brt]
  | 1 => txn [ctlByte en brt]
  | 2 => txn [ctlByte en brt]
  | 3 => dseg a b en brt
  | 4 => dseg a (romRead prm (indexOperand b)) en brt
  | 5 => dseg 0x01#8 (colonPattern a) en brt
  | 6 => dseg 0x00#8 0x00#8 en brt ++ dseg 0x01#8 0x00#8 en brt
      ++ dseg 0x02#8 0x00#8 en brt ++ dseg 0x03#8 0x00#8 en brt
  | _ => []

/-- `E` of R120: the expansion of the latched command under the held configuration. -/
def expansion (prm : Params) (r : Regs) : List MicroOp := expand prm r.op r.a r.b r.en r.brt

end Sys2Proof.Machine
end

