-- ==== Sys2Proof/Machine/Flags.lean ====
section
/-! DEFINITION. Machine/Flags.lean: the status bits and the output ports (10_state.md R25 to R27, R31), and the level
of a line (R24). -/

namespace Sys2Proof.Machine

/-- What a sample writes: `ACK_LAST <- v; NACK_ANY <- NACK_ANY | v` (R118, R25, R26). -/
def sampleFlags (r : Regs) (v : Bool) : Regs := { r with ackLast := v, nackAny := r.nackAny || v }

/-- `CLK_LINE = CLK_OE ? CLK_O : env_clk` (R24). -/
def clkLine (r : Regs) (i : Inputs) : Bool := if r.clkOe then r.clkO else i.envClk

/-- `DIO_LINE = DIO_OE ? DIO_O : env_dio` (R24); input port `dio_i` carries it (R31). -/
def dioLine (r : Regs) (i : Inputs) : Bool := if r.dioOe then r.dioO else i.envDio

/-- `cmd_ready = not BUSY` (R27, R31). -/
def cmdReady (r : Regs) : Bool := !r.busy

/-- Port `status`: bit 0 = `BUSY`, bit 1 = `ACK_LAST`, bit 2 = `NACK_ANY` (R31). -/
def statusPort (r : Regs) : BitVec 3 := BitVec.ofBool r.nackAny ++ BitVec.ofBool r.ackLast ++ BitVec.ofBool r.busy

/-- The output ports of R31. -/
structure OutPorts where
  /-- Port `cmd_ready`. -/
  cmdReady : Bool
  /-- Port `status`. -/
  status : BitVec 3
  /-- Port `clk_o`. -/
  clkO : Bool
  /-- Port `clk_oe`. -/
  clkOe : Bool
  /-- Port `dio_o`. -/
  dioO : Bool
  /-- Port `dio_oe`. -/
  dioOe : Bool
  /-- Port `dly_req`. -/
  dlyReq : Bool
  deriving DecidableEq, Repr

/-- What the output ports carry: a function of the registers at all times (R31, R23). -/
def outPorts (r : Regs) : OutPorts :=
  { cmdReady := cmdReady r, status := statusPort r, clkO := r.clkO, clkOe := r.clkOe, dioO := r.dioO,
    dioOe := r.dioOe, dlyReq := r.dly }

end Sys2Proof.Machine
end

