-- ==== Sys2Proof/Machine/Observer.lean ====
section
/-! DEFINITION. Machine/Observer.lean: one step of the wire observer `Decode` (20_memory.md R64). It looks at the two
lines after each `Pin` event and at no other moment. -/

namespace Sys2Proof.Machine

/-- The number whose bits are given least significant first: `sum over i of bits[i] * 2^i` (R64). -/
def bitsToNat : List Bool → Nat
  | [] => 0
  | b :: bs => b.toNat + 2 * bitsToNat bs

/-- The byte of eight bits, bit 0 first (R54, R64). -/
def bitsToByte (bits : List Bool) : Byte := BitVec.ofNat 8 (bitsToNat bits)

/-- A rising CLOCK edge in an open transaction with DATA at `d` (R64): the ninth of a byte is no data. -/
def Observer.risingEdge (o : Observer) (d : Bool) : Observer :=
  if (o.k + 1) % 9 = 0 then { o with k := o.k + 1 }
  else if (o.bits ++ [d]).length = 8 then
    { o with k := o.k + 1, bytes := o.bytes ++ [bitsToByte (o.bits ++ [d])], bits := [] }
  else { o with k := o.k + 1, bits := o.bits ++ [d] }

/-- A start condition: DATA falls while CLOCK is high (R64). -/
def isStart (p q : Lines) : Bool := p.clk && q.clk && p.dio && !q.dio

/-- A stop condition: DATA rises while CLOCK is high (R64). -/
def isStop (p q : Lines) : Bool := p.clk && q.clk && !p.dio && q.dio

/-- What the observer does for the pair `p -> q`, apart from remembering `q` (R64). -/
def Observer.react (o : Observer) (p q : Lines) : Observer :=
  if isStart p q then { o with inTxn := true, bits := [], k := 0, bytes := [] }
  else if isStop p q then { o with inTxn := false, out := if o.inTxn then o.out ++ [o.bytes] else o.out }
  else if !p.clk && q.clk && o.inTxn then o.risingEdge q.dio
  else o

/-- The pair the next event starts from: the one after the last event, or, before the first event, what the lines carry
just before it (R64, log 9). -/
def Observer.start (o : Observer) (before : Lines) : Lines := o.prev.getD before

/-- The observer sees a `Pin` event that leaves the lines at `after`, having found them at `before` (R64). -/
def Observer.see (o : Observer) (before after : Lines) : Observer :=
  { o.react (o.start before) after with prev := some after }

/-- The transaction that an event closes, if it closes one (R64), as a list of none or one. -/
def Observer.closes (o : Observer) (before after : Lines) : List (List Byte) :=
  if isStop (o.start before) after && o.inTxn then [o.bytes] else []

/-- The wire is in an acknowledgement slot: after the eighth rising edge of a byte CLOCK is low, or it is high with the
ninth (R64, R133; the chip's part in it is G4). -/
def Observer.inAckSlot (o : Observer) : Bool :=
  o.inTxn && match o.prev with
    | none => false
    | some p => if p.clk then decide (o.k % 9 = 0) && decide (o.k ≠ 0) else decide (o.k % 9 = 8)

end Sys2Proof.Machine
end

