-- ==== Sys2Proof/Machine/Receiver.lean ====
section
/-! DEFINITION. Machine/Receiver.lean: the reference receiver (20_memory.md R65) and its display memory.
It is a test fixture, not a model of the real TM1637: it takes only what the block's documented use produces and refuses
everything else. -/

namespace Sys2Proof.Machine

/-- The display registers `DISP[0..3]`: cells of rising positions; an unlisted position is unwritten (R65, U6), so no
byte equals what an unlisted position reads as. -/
abbrev Memory := List Host.Cell

/-- `DISP[p]`: none where it is unwritten. -/
def memRead : Memory → Nat → Option Byte
  | [], _ => none
  | (q, w) :: m, p => if p = q then some w else memRead m p

/-- `DISP[p] <- v`, keeping the positions rising. -/
def memWrite : Memory → Nat → Byte → Memory
  | [], p, v => [(p, v)]
  | (q, w) :: m, p, v =>
    if p < q then (p, v) :: (q, w) :: m
    else if p = q then (p, v) :: m
    else (q, w) :: memWrite m p v

/-- Every position is at least `lo`, below `POSITION_MAX`, and they rise strictly. -/
def memWfFrom : Nat → Memory → Bool
  | _, [] => true
  | lo, (q, _) :: m => decide (lo ≤ q) && decide (q < Config.positionMax) && memWfFrom (q + 1) m

/-- The canonical form of the display memory. -/
def Memory.wf (m : Memory) : Bool := memWfFrom 0 m

/-- R65's "refuse": the run is rejected for the receiver, for good, and it drops the rest of the transaction (log 5). -/
def Receiver.refuse (rx : Receiver) : Receiver := { rx with refused := true, todo := [], ptr := none }

/-- The current byte is taken: `p` holds for the next byte of the same transaction; after the last byte the
transaction is over. -/
def Receiver.pop (rx : Receiver) (p : Option Nat) : Receiver :=
  match rx.todo with
  | _ :: v :: vs => { rx with todo := v :: vs, ptr := p }
  | _ => { rx with todo := [], ptr := none }

/-- R65, `b0[7:6] = 0b01`: "if b0 = 0x40 and no further byte then MODE <- 0x40 else refuse". -/
def Receiver.takeCmdData (rx : Receiver) : Receiver :=
  if rx.todo.tail = [] then Receiver.pop { rx with mode := some 0x40#8 } none else rx.refuse

/-- R65, `b0[7:6] = 0b11`: refuse if `MODE` is unwritten or `p >= 4`; else `p` addresses the further bytes. -/
def Receiver.takeAddr (rx : Receiver) (p : Nat) : Receiver :=
  if rx.mode = none ∨ Config.positionMax ≤ p then rx.refuse else rx.pop (some p)

/-- R65, `b0[7:6] = 0b10`: "if (b0 & 0x70) = 0 and no further byte then CTRL <- b0 else refuse". -/
def Receiver.takeCtl (rx : Receiver) (b0 : Byte) : Receiver :=
  if b0 &&& 0x70#8 = 0#8 ∧ rx.todo.tail = [] then Receiver.pop { rx with ctrl := some b0 } none else rx.refuse

/-- R65, a further byte after an address byte: "if p >= 4 then refuse; DISP[p] <- v; p <- p + 1". -/
def Receiver.takeSegdata (rx : Receiver) (v : Byte) : Receiver :=
  match rx.ptr with
  | none => rx.refuse
  | some p =>
    if Config.positionMax ≤ p then rx.refuse
    else Receiver.pop { rx with disp := memWrite rx.disp p v } (some (p + 1))

/-- What the receiver does with an instruction (R65): the four wire bytes are its own; the commands and the micro-ops
are the block's. -/
def Receiver.take (rx : Receiver) : Instr → Receiver
  | .cmdData => rx.takeCmdData
  | .addr p => rx.takeAddr p.toNat
  | .ctl v => rx.takeCtl (0x80#8 ||| v.setWidth 8)
  | .segdata v => rx.takeSegdata v
  | .init _ _ | .enable _ _ | .setBrightness _ _ | .displaySegments _ _ | .displayDigit _ _ | .displayColon _ _
  | .clear _ _ | .rsvd7 _ _ => rx
  | .clkLo | .clkHi | .dioLo | .dioHi | .clkOut | .dioOut | .dioIn | .dioRd => rx

/-- The receiver takes the next byte of its transaction: it decodes it by its place and does what it says, or refuses
what is no instruction (R65). -/
def Receiver.takeByte (rx : Receiver) : Receiver :=
  match rx.todo with
  | [] => rx
  | v :: _ =>
    match decodeWire rx.ptr.isNone v with
    | .instr i => rx.take i
    | .reject _ => rx.refuse

/-- The receiver takes up to `n` bytes. -/
def Receiver.takeBytes : Nat → Receiver → Receiver
  | 0, rx => rx
  | n + 1, rx => Receiver.takeBytes n rx.takeByte

/-- The receiver takes a transaction of `Decode`, whole, at its stop condition (R65, R57 (d), R211); it refuses an empty
one, and takes nothing more once it has refused (log 5). -/
def Receiver.takeTxn (rx : Receiver) (bs : List Byte) : Receiver :=
  if rx.refused then rx
  else if bs = [] then rx.refuse
  else Receiver.takeBytes bs.length { rx with todo := bs, ptr := none }

end Sys2Proof.Machine
end

