-- ==== Sys2Proof/Machine/Ops.lean ====
section
/-! DEFINITION. Machine/Ops.lean: the named operations that the meanings and the step share: the next sample of the
input ports, acceptance (40_pin_microops.md R121), a pin micro-op and a sample (R110 to R119), the end of a delay and the
completion of a command (R120), reset (70_reset_and_hazards.md R200). The block takes no exception and returns from none
(60_exceptions.md R180, R184, R185), so there is no operation for either. -/

namespace Sys2Proof.Machine

/-- What the input ports carry at the coming edge: the script's next sample, or the free inputs (log 2). -/
def State.now (s : State) : Inputs :=
  match s.script with
  | i :: _ => i
  | [] => Config.freeInputs s.tick

/-- The levels the environment puts on undriven lines, in the sample at this edge: where the reference receiver answers,
DATA is 0 in the acknowledgement slots (R65); everywhere else the levels are free (R24, R61, log 22). -/
def State.env (s : State) : Inputs :=
  if s.rx.answers && s.obs.inAckSlot then { s.now with envDio := false } else s.now

/-- The lines at this edge with the pin registers of `r` (R24). -/
def State.lines (s : State) (r : Regs) : Lines := { clk := clkLine r s.env, dio := dioLine r s.env }

/-- The edge is over: every step of the machine uses up exactly one sample of the input ports. -/
def State.advance (s : State) : State := { s with script := s.script.tail, tick := s.tick + 1 }

/-- `EN <- v`. -/
def State.setEn (s : State) (v : Bool) : State := { s with regs := { s.regs with en := v } }

/-- `BRT <- v`, stored exactly as given (R22). -/
def State.setBrt (s : State) (v : Byte) : State := { s with regs := { s.regs with brt := v } }

/-- Acceptance, the part common to all commands (R121): `OP`, `A`, `B` latched, `UPC <- 0`, `NACK_ANY <- 0`,
`BUSY <- 1`. -/
def State.accept (s : State) (op : BitVec 3) (a b : Byte) : State :=
  State.advance
    { s with regs := { s.regs with op := op, a := a, b := b, upc := 0, nackAny := false, busy := true } }

/-- The step of a pin micro-op (R120 S1) once it has written its register, giving `r`: `UPC` goes up by one, the delay
starts whether or not the write changed anything (R119), the trace gets `Pin(u)` (R123), the observer sees the lines as
they now are (R64), and the receiver takes the transaction that closes with them, if one does (R65, R211). -/
def State.pinStep (s : State) (u : MicroOp) (r : Regs) : State :=
  State.advance
    { s with
      regs := { r with upc := r.upc + 1, dly := true }
      trace := s.trace ++ [.pin u]
      obs := s.obs.see (s.lines s.regs) (s.lines r)
      rx := (s.obs.closes (s.lines s.regs) (s.lines r)).foldl Receiver.takeTxn s.rx }

/-- `sample(dio_i)`: the level of port `dio_i`, which carries `DIO_LINE` (R24, R61, R118). -/
def State.sample (s : State) : Bool := dioLine s.regs s.env

/-- The step of the sample micro-op (R120 S1, R118): the flags, `UPC + 1`, the trace's `Sample(v)`; no delay, no pin. -/
def State.sampleStep (s : State) : State :=
  State.advance
    { s with
      regs := { sampleFlags s.regs s.sample with upc := s.regs.upc + 1 }
      trace := s.trace ++ [.sample s.sample] }

/-- S2 of R120: `DLY <- 0`, and the trace gets `Wait` (R123). -/
def State.delayEnd (s : State) : State :=
  State.advance { s with regs := { s.regs with dly := false }, trace := s.trace ++ [.wait] }

/-- S3 of R120: `BUSY <- 0`. -/
def State.complete (s : State) : State := State.advance { s with regs := { s.regs with busy := false } }

/-- An edge with `rst` = 1 (R200, R201): every register takes its reset value, and a new trace begins (log 10). The
observer and the receiver are outside the block and are not reset (log 11). -/
def State.resetBlock (s : State) : State :=
  State.advance { s with regs := resetRegs s.params, trace := [] }

/-- The receiver takes a byte: only its own record changes. -/
def State.setRx (s : State) (rx : Receiver) : State := State.advance { s with rx := rx }

/-- The receiver is offered something no instruction of the table is, and refuses (R65). -/
def State.refuseWire (s : State) : State := s.setRx s.rx.refuse

/-- A lower bound, in microseconds, of the time at which the event after the events `t` happens (R123). -/
def minTimeUs (prm : Params) (t : List Event) : Nat := prm.delayUs * t.count .wait

end Sys2Proof.Machine
end

