-- ==== Sys2Proof/Machine/Control.lean ====
section
/-! DEFINITION. Machine/Control.lean: the control commands INIT, ENABLE and SET_BRIGHTNESS (42_control_commands.md). A
command's own step is its acceptance (40_pin_microops.md R121); the sequencer then runs its expansion, micro-op by
micro-op. That a command is offered to the block only while `BUSY` = 0 is the step's doing (R121, Machine/Fetch.lean). -/

namespace Sys2Proof.Machine

/-- `INIT a, b` (R151): `EN <- bool(a); BRT <- b`. -/
def execInit (a b : Byte) (s : State) : Host.Outcome State Fault Refusal :=
  .next (((s.setEn (boolOperand a)).setBrt (rawOperand b)).accept 0 a b)

/-- `ENABLE a` (R152): `EN <- bool(a)`, `BRT` unchanged. -/
def execEnable (a b : Byte) (s : State) : Host.Outcome State Fault Refusal :=
  .next ((s.setEn (boolOperand a)).accept 1 a b)

/-- `SET_BRIGHTNESS a` (R153): `BRT <- a`, `EN` unchanged. -/
def execSetBrightness (a b : Byte) (s : State) : Host.Outcome State Fault Refusal :=
  .next ((s.setBrt (rawOperand a)).accept 2 a b)

end Sys2Proof.Machine
end

