-- ==== Sys2Proof/Machine/Display.lean ====
section
/-! DEFINITION. Machine/Display.lean: the display commands and the reserved opcode (43_display_commands.md). None of
them writes `EN` or `BRT`; what each sends is its expansion (40_pin_microops.md R122, Machine/Expand.lean). -/

namespace Sys2Proof.Machine

/-- `DISPLAY_SEGMENTS a, b` (R161). -/
def execDisplaySegments (a b : Byte) (s : State) : Host.Outcome State Fault Refusal := .next (s.accept 3 a b)

/-- `DISPLAY_DIGIT a, b` (R162). -/
def execDisplayDigit (a b : Byte) (s : State) : Host.Outcome State Fault Refusal := .next (s.accept 4 a b)

/-- `DISPLAY_COLON a` (R163). -/
def execDisplayColon (a b : Byte) (s : State) : Host.Outcome State Fault Refusal := .next (s.accept 5 a b)

/-- `CLEAR` (R164). -/
def execClear (a b : Byte) (s : State) : Host.Outcome State Fault Refusal := .next (s.accept 6 a b)

/-- `RSVD7` (R165): accepted like any command; its expansion is empty. -/
def execRsvd7 (a b : Byte) (s : State) : Host.Outcome State Fault Refusal := .next (s.accept 7 a b)

end Sys2Proof.Machine
end

