-- ==== Sys2Proof/Machine/MicroOps.lean ====
section
/-! DEFINITION. Machine/MicroOps.lean: the eight micro-ops (40_pin_microops.md R111 to R118). -/

namespace Sys2Proof.Machine

/-- `CLK_LO` (R111): `CLK_O <- 0; wait()`. -/
def execClkLo (s : State) : Host.Outcome State Fault Refusal := .next (s.pinStep .clkLo { s.regs with clkO := false })

/-- `CLK_HI` (R112): `CLK_O <- 1; wait()`. -/
def execClkHi (s : State) : Host.Outcome State Fault Refusal := .next (s.pinStep .clkHi { s.regs with clkO := true })

/-- `DIO_LO` (R113): `DIO_O <- 0; wait()`. -/
def execDioLo (s : State) : Host.Outcome State Fault Refusal := .next (s.pinStep .dioLo { s.regs with dioO := false })

/-- `DIO_HI` (R114): `DIO_O <- 1; wait()`. -/
def execDioHi (s : State) : Host.Outcome State Fault Refusal := .next (s.pinStep .dioHi { s.regs with dioO := true })

/-- `CLK_OUT` (R115): `CLK_OE <- 1; wait()`. -/
def execClkOut (s : State) : Host.Outcome State Fault Refusal := .next (s.pinStep .clkOut { s.regs with clkOe := true })

/-- `DIO_OUT` (R116): `DIO_OE <- 1; wait()`. -/
def execDioOut (s : State) : Host.Outcome State Fault Refusal := .next (s.pinStep .dioOut { s.regs with dioOe := true })

/-- `DIO_IN` (R117): `DIO_OE <- 0; wait()`. -/
def execDioIn (s : State) : Host.Outcome State Fault Refusal := .next (s.pinStep .dioIn { s.regs with dioOe := false })

/-- `DIO_RD` (R118): the sample; a missing acknowledgement is no error (R136). -/
def execDioRd (s : State) : Host.Outcome State Fault Refusal := .next s.sampleStep

end Sys2Proof.Machine
end

