-- ==== Sys2Proof/Machine/WireBytes.lean ====
section
/-! DEFINITION. Machine/WireBytes.lean: the bytes on the wire (30_encoding.md R86 to R89) as the reference receiver takes
them (20_memory.md R65, log 6). How the block sends them is `SEND_BYTE` (Machine/Expand.lean). No byte on the wire changes
a register of the block (R61). -/

namespace Sys2Proof.Machine

/-- `CMD_DATA` (R86): write data, auto-increment address. -/
def execCmdData (s : State) : Host.Outcome State Fault Refusal := .next (s.setRx s.rx.takeCmdData)

/-- `ADDR` (R87): the position is `b0 & 0x3F`. -/
def execAddr (p : BitVec 6) (s : State) : Host.Outcome State Fault Refusal := .next (s.setRx (s.rx.takeAddr p.toNat))

/-- `CTL` (R88, R150): the whole byte is bit 7 and the seven bits of `v`. -/
def execCtl (v : BitVec 7) (s : State) : Host.Outcome State Fault Refusal :=
  .next (s.setRx (s.rx.takeCtl (0x80#8 ||| v.setWidth 8)))

/-- `SEGDATA` (R89): the pattern for the addressed position. -/
def execSegdata (v : Byte) (s : State) : Host.Outcome State Fault Refusal := .next (s.setRx (s.rx.takeSegdata v))

end Sys2Proof.Machine
end

