-- ==== Sys2Proof/Machine/Dispatch.lean ====
section
/-! DEFINITION. Machine/Dispatch.lean: one arm per constructor of Instr. -/

namespace Sys2Proof.Machine

def exec (i : Instr) (s : State) : Host.Outcome State Fault Refusal :=
  match i with
  | .init a b => Sys2Proof.Machine.execInit a b s
  | .enable a b => Sys2Proof.Machine.execEnable a b s
  | .setBrightness a b => Sys2Proof.Machine.execSetBrightness a b s
  | .displaySegments a b => Sys2Proof.Machine.execDisplaySegments a b s
  | .displayDigit a b => Sys2Proof.Machine.execDisplayDigit a b s
  | .displayColon a b => Sys2Proof.Machine.execDisplayColon a b s
  | .clear a b => Sys2Proof.Machine.execClear a b s
  | .rsvd7 a b => Sys2Proof.Machine.execRsvd7 a b s
  | .clkLo => Sys2Proof.Machine.execClkLo s
  | .clkHi => Sys2Proof.Machine.execClkHi s
  | .dioLo => Sys2Proof.Machine.execDioLo s
  | .dioHi => Sys2Proof.Machine.execDioHi s
  | .clkOut => Sys2Proof.Machine.execClkOut s
  | .dioOut => Sys2Proof.Machine.execDioOut s
  | .dioIn => Sys2Proof.Machine.execDioIn s
  | .dioRd => Sys2Proof.Machine.execDioRd s
  | .cmdData => Sys2Proof.Machine.execCmdData s
  | .addr p => Sys2Proof.Machine.execAddr p s
  | .ctl v => Sys2Proof.Machine.execCtl v s
  | .segdata v => Sys2Proof.Machine.execSegdata v s

end Sys2Proof.Machine
end

