-- ==== Sys2Proof/Machine/Fetch.lean ====
section
/-! DEFINITION. Machine/Fetch.lean: which step is enabled (40_pin_microops.md R120, R121, 60_exceptions.md R183,
70_reset_and_hazards.md R200), and how an instruction is placed so that the next step runs it. -/

namespace Sys2Proof.Machine

/-- The steps the machine can take at a clock edge. -/
inductive Move where
  /-- `rst` = 1 (R200). -/
  | reset
  /-- The block has no step (R180) and the receiver has nothing to take. -/
  | idle
  /-- S2 of R120. -/
  | delayEnd
  /-- S3 of R120. -/
  | complete
  /-- The receiver refuses a byte placed before it that is no instruction: a first byte of no class (R65). -/
  | refuseWire
  /-- An instruction: acceptance of a command (R121), a micro-op (S1 of R120), or a byte placed before the
  receiver (log 4). -/
  | run (i : Instr)
  deriving DecidableEq, Repr

/-- What happens at an edge where the block has no step. No transaction of the wire waits there, since each is taken at
its stop condition; a byte placed before the receiver from outside is taken, unless it has refused (log 4, log 13). -/
def receiverMove (rx : Receiver) : Move :=
  if rx.refused then .idle
  else match rx.todo with
    | [] => .idle
    | v :: _ =>
      match decodeWire rx.ptr.isNone v with
      | .instr i => .run i
      | .reject _ => .refuseWire

/-- The block's own step at an edge without reset, none where it has no step enabled: acceptance when `BUSY` = 0 and
`cmd_valid` = 1 (R121), else S1, S2 or S3 of R120. A word offered while `BUSY` = 1 is not looked at (R181, R183). -/
def blockMove (prm : Params) (r : Regs) (i : Inputs) : Option Move :=
  if r.busy then
    if r.dly then (if i.dlyDone then some .delayEnd else none)
    else match (expansion prm r)[r.upc.toNat]? with
      | some u => some (.run u.toInstr)
      | none => if r.upc.toNat = (expansion prm r).length then some .complete else none
  else if i.cmdValid then some (.run (decodeCommand i.cmdWord))
  else none

/-- The step that is taken: reset wins (R183, R200), then the block, then the receiver. -/
def nextMove (s : State) : Move :=
  if s.now.rst then .reset
  else match blockMove s.params s.regs s.now with
    | some m => m
    | none => receiverMove s.rx

/-- A sample of the input ports with no reset, no answer of the timer and undriven lines high, on which a word is
offered or not. -/
def offerInputs (valid : Bool) (w : CommandWord) : Inputs :=
  { rst := false, cmdValid := valid, cmdWord := w, envClk := true, envDio := true, dlyDone := false }

/-- A command is placed by offering its word at the next edge to a block that is not busy (R121, R205). -/
def placeCommand (s : State) (w : CommandWord) : State :=
  { s with regs := { s.regs with busy := false, dly := false }, script := offerInputs true w :: s.script }

/-- Where each micro-op code stands in the expansion of every `INIT` (R154, R130, R132, R133). -/
def microOpIndex (c : BitVec 4) : BitVec 10 :=
  match c.toNat with
  | 0 => 5
  | 1 => 0
  | 2 => 4
  | 3 => 2
  | 4 => 1
  | 5 => 3
  | 6 => 30
  | _ => 32

/-- A micro-op is placed by selecting it: a host cannot issue one (R110), so the latched command becomes an `INIT` in
progress whose next micro-op it is. -/
def placeMicroOp (s : State) (c : BitVec 4) : State :=
  { s with
    regs := { s.regs with op := 0, busy := true, dly := false, upc := microOpIndex c }
    script := offerInputs false 0 :: s.script }

/-- A wire byte is placed before the receiver as the rest of its transaction, at an edge where the block has no step; a
later byte comes after an address byte already taken. -/
def placeWireByte (s : State) (first : Bool) (v : Byte) : State :=
  { s with
    regs := { s.regs with busy := false, dly := false }
    script := offerInputs false 0 :: s.script
    rx := { s.rx with
      todo := [v], refused := false, ptr := if first then none else some (s.rx.ptr.getD 0) } }

/-- An instruction of the opcode table is placed where its code space is fetched from; a code that is too wide for its
space is nowhere. -/
def placeWord (s : State) (nbits w : Nat) : State :=
  if w < 2 ^ (tableSpace nbits w).width then
    match tableSpace nbits w with
    | .command => placeCommand s (BitVec.ofNat 19 w)
    | .microOp => placeMicroOp s (BitVec.ofNat 4 w)
    | .wireFirst => placeWireByte s true (BitVec.ofNat 8 w)
    | .wireLater => placeWireByte s false (BitVec.ofNat 8 w)
  else s

end Sys2Proof.Machine
end

