-- ==== Sys2Proof/Machine/Perform.lean ====
section
/-! DEFINITION. Machine/Perform.lean: taking the enabled move. -/

namespace Sys2Proof.Machine

/-- The move is taken (R120, R121, R200, R65). Each takes one clock edge. -/
def perform (m : Move) (s : State) : Host.Outcome State Fault Refusal :=
  match m with
  | .reset => .next s.resetBlock
  | .idle => .next s.advance
  | .delayEnd => .next s.delayEnd
  | .complete => .next s.complete
  | .refuseWire => .next s.refuseWire
  | .run i => exec i s

end Sys2Proof.Machine
end

