-- ==== Sys2Proof/Machine/Step.lean ====
section
/-! DEFINITION. Machine/Step.lean: one step, at one rising clock edge (10_state.md R31). -/

namespace Sys2Proof.Machine

/-- One step: the enabled move (Machine/Fetch.lean) is taken. It always answers a next state: where no step of the
block is enabled the block's registers stay and the edge passes (60_exceptions.md R180, R192, log 3). -/
def step (s : State) : Host.Outcome State Fault Refusal := perform (nextMove s) s

/-- `s` with an instruction of the opcode table placed so that the next step runs it (log 13). -/
def State.withFetchWord (s : State) (nbits w : Nat) : State := placeWord s nbits w

end Sys2Proof.Machine
end

