-- ==== Sys2Proof/Safety.lean ====
section
/-! DEFINITION. Safety.lean: the words the claims are stated in: the idle lines (10_state.md R35), the order of the
sequencer (40_pin_microops.md R120), the delay rule on a trace (R119, R123), what a command sends (30_encoding.md R95), and
the canonical forms of the observer and the receiver. -/

namespace Sys2Proof.Machine

/-- The four pin registers (R23). -/
structure Pins where
  /-- `CLK_O`. -/
  clkO : Bool
  /-- `CLK_OE`. -/
  clkOe : Bool
  /-- `DIO_O`. -/
  dioO : Bool
  /-- `DIO_OE`. -/
  dioOe : Bool
  deriving DecidableEq, Repr

/-- The pin registers of the block. -/
def pinsOf (r : Regs) : Pins := { clkO := r.clkO, clkOe := r.clkOe, dioO := r.dioO, dioOe := r.dioOe }

/-- The idle state of the bus: both lines driven high (R35). -/
def idlePins : Pins := { clkO := true, clkOe := true, dioO := true, dioOe := true }

/-- What one micro-op does to the pin registers (R111 to R118). -/
def Pins.write (p : Pins) : MicroOp → Pins
  | .clkLo => { p with clkO := false }
  | .clkHi => { p with clkO := true }
  | .dioLo => { p with dioO := false }
  | .dioHi => { p with dioO := true }
  | .clkOut => { p with clkOe := true }
  | .dioOut => { p with dioOe := true }
  | .dioIn => { p with dioOe := false }
  | .dioRd => p

/-- The pin registers after a micro-op list. -/
def pinsAfter (us : List MicroOp) (p : Pins) : Pins := us.foldl Pins.write p

/-- The micro-ops of a list that change DATA's latch or enable while CLOCK's latch is 1 (R138). -/
def dataMovesUnderHighClock : List MicroOp → Pins → List MicroOp
  | [], _ => []
  | u :: us, p =>
    if p.clkO ∧ ((p.write u).dioO ≠ p.dioO ∨ (p.write u).dioOe ≠ p.dioOe) then
      u :: dataMovesUnderHighClock us (p.write u)
    else dataMovesUnderHighClock us (p.write u)

/-- Does a micro-op write DATA's latch or enable (R138)? -/
def writesData : MicroOp → Bool
  | .dioLo | .dioHi | .dioOut | .dioIn => true
  | .clkLo | .clkHi | .clkOut | .dioRd => false

/-- The DATA writes of a list that are made while CLOCK's latch is 1, whether or not they change anything (R138). -/
def dataWritesUnderHighClock : List MicroOp → Pins → List MicroOp
  | [], _ => []
  | u :: us, p =>
    if p.clkO && writesData u then u :: dataWritesUnderHighClock us (p.write u)
    else dataWritesUnderHighClock us (p.write u)

/-- The rising edges of CLOCK's latch that a micro-op list makes (R139). -/
def clockRises : List MicroOp → Pins → Nat
  | [], _ => 0
  | u :: us, p => (if !p.clkO && (p.write u).clkO then 1 else 0) + clockRises us (p.write u)

/-- The rising edges of CLOCK's latch, each given by how many pin micro-ops (so how many delays, R119) have been made up
to and including the one that makes it (R140). -/
def riseTimes : List MicroOp → Pins → Nat → List Nat
  | [], _, _ => []
  | u :: us, p, n =>
    if !p.clkO && (p.write u).clkO then (n + 1) :: riseTimes us (p.write u) (n + 1)
    else riseTimes us (p.write u) (if u.isPin then n + 1 else n)

/-- Everything a pin micro-op does to a state whose registers it makes `r` (R119, R120 S1, R123, R64, R65): `UPC`, the
delay, the trace, what the observer sees, and the transaction that the receiver takes if this event closes one; and that
it does nothing else. -/
def PinEffect (u : MicroOp) (r : Regs) (s t : State) : Prop :=
  t.regs = { r with upc := s.regs.upc + 1, dly := true } ∧ t.params = s.params ∧ t.script = s.script.tail ∧
  t.tick = s.tick + 1 ∧ t.trace = s.trace ++ [.pin u] ∧
  t.obs = s.obs.see (s.lines s.regs) (s.lines r) ∧
  t.rx = (s.obs.closes (s.lines s.regs) (s.lines r)).foldl Receiver.takeTxn s.rx

/-- The sequencer's registers fit together: no delay without a command, and `UPC` never past the expansion (R121,
R120, R29). -/
def SequencerOk (s : State) : Prop :=
  (s.regs.busy = false → s.regs.dly = false) ∧
  (s.regs.busy = true → s.regs.upc.toNat ≤ (expansion s.params s.regs).length)

/-- The delay rule on a trace (R119, R123): after `Pin` comes `Wait` and nothing else, and `Wait` comes only then. From
"a delay is running" or not before the trace, whether one is running after it; none if the rule is broken. -/
def delayScan : Bool → List Event → Option Bool
  | d, [] => some d
  | false, .pin _ :: t => delayScan true t
  | false, .sample _ :: t => delayScan false t
  | true, .wait :: t => delayScan false t
  | _, _ => none

/-- The trace obeys the delay rule and `DLY` says whether its last event is a `Pin` still waiting for its delay. -/
def TraceTimed (s : State) : Prop := delayScan false s.trace = some s.regs.dly

/-- The trace of a micro-op list (R123): `Pin(u), Wait` for a pin micro-op, `Sample(v)` for a `DIO_RD`, in order and
nothing else. -/
def isTraceOf : List MicroOp → List Event → Bool
  | [], [] => true
  | u :: us, .pin u' :: .wait :: t => u.isPin && decide (u = u') && isTraceOf us t
  | u :: us, .sample _ :: t => !u.isPin && isTraceOf us t
  | _, _ => false

/-- The level sampled last in a trace, `v` where nothing was sampled (R25). -/
def lastSample : Bool → List Event → Bool
  | v, [] => v
  | _, .sample w :: t => lastSample w t
  | v, .pin _ :: t => lastSample v t
  | v, .wait :: t => lastSample v t

/-- How many steps S1 and S2 a micro-op list takes (R125): one S1 each, one S2 per pin micro-op. -/
def movesOf (us : List MicroOp) : Nat := us.length + us.countP MicroOp.isPin

/-- The three transactions of an addressed write (R160, R95). -/
def dsegWire (p s : Byte) (en : Bool) (brt : Byte) : List (List Byte) :=
  [[0x40#8], [addrByte p, s], [ctlByte en brt]]

/-- The transactions a command sends, in order (R95, R151 to R153, R161 to R165). -/
def wireOf (prm : Params) (op : BitVec 3) (a b : Byte) (en : Bool) (brt : Byte) : List (List Byte) :=
  match op.toNat with
  | 0 => [[ctlByte en brt]]
  | 1 => [[ctlByte en brt]]
  | 2 => [[ctlByte en brt]]
  | 3 => dsegWire a b en brt
  | 4 => dsegWire a (romRead prm (indexOperand b)) en brt
  | 5 => dsegWire 0x01#8 (colonPattern a) en brt
  | 6 => dsegWire 0x00#8 0x00#8 en brt ++ dsegWire 0x01#8 0x00#8 en brt
      ++ dsegWire 0x02#8 0x00#8 en brt ++ dsegWire 0x03#8 0x00#8 en brt
  | _ => []

/-- `EN` after the acceptance of a word (R121). -/
def acceptedEn (w : CommandWord) (en : Bool) : Bool :=
  if opField w = 0 ∨ opField w = 1 then boolOperand (aField w) else en

/-- `BRT` after the acceptance of a word (R121). -/
def acceptedBrt (w : CommandWord) (brt : Byte) : Byte :=
  if opField w = 0 then bField w else if opField w = 2 then aField w else brt

/-- The expansion of a word accepted in `s` (R121, R122). -/
def wordExpansion (s : State) (w : CommandWord) : List MicroOp :=
  expand s.params (opField w) (aField w) (bField w) (acceptedEn w s.regs.en) (acceptedBrt w s.regs.brt)

/-- How many edges a micro-op list takes on given samples of the input ports (R120, R125): one for each micro-op, and
after a pin micro-op one for each sample up to the first in which the delay timer answers; the flag says that a delay is
running. None if there is a reset, or if the samples end before the timer has answered. -/
def edgesFor : Bool → List MicroOp → List Inputs → Option Nat
  | false, [], _ => some 0
  | _, _, [] => none
  | true, us, i :: l => if i.rst then none else (edgesFor (!i.dlyDone) us l).map (· + 1)
  | false, u :: us, i :: l => if i.rst then none else (edgesFor u.isPin us l).map (· + 1)

/-- The word `w` is offered to a block that is not busy, and the samples that follow let its expansion run in `n` edges:
the timer answers every delay after a finite time, at whatever edge, there is no reset, and one more sample without
reset is given for the completing step (R121, R125). What the environment does to undriven lines is left open. -/
def OfferedFor (w : CommandWord) (n : Nat) (s : State) : Prop :=
  s.regs.busy = false ∧ s.regs.dly = false ∧ s.now.rst = false ∧ s.now.cmdValid = true ∧ s.now.cmdWord = w ∧
  edgesFor false (wordExpansion s w) s.script.tail = some n ∧
  ∃ i l, s.script.tail.drop n = i :: l ∧ i.rst = false

/-- While `LINES_INIT` runs on these samples the environment holds an undriven DATA line at 1 (R203). -/
def PulledUpForLinesInit (l : List Inputs) : Prop :=
  ∀ m, edgesFor false linesInit l = some m → ∀ i ∈ l.take m, i.envDio = true

/-- The host kept the boot rule (R202, R35): with no command in progress both lines are driven high, and during one the
pins are those its micro-ops so far make, from the idle state or, for an `INIT`, from any. -/
def Booted (s : State) : Prop :=
  (s.regs.busy = false → pinsOf s.regs = idlePins) ∧
  (s.regs.busy = true → ∃ p : Pins,
    pinsOf s.regs = pinsAfter ((expansion s.params s.regs).take s.regs.upc.toNat) p ∧ (s.regs.op = 0 ∨ p = idlePins))

/-- The observer has no open transaction, and the last pair it saw, if any, is the idle bus. -/
def ObserverIdle (o : Observer) : Prop := o.inTxn = false ∧ ∀ p, o.prev = some p → p = { clk := true, dio := true }

/-- The observer has no open transaction, and DATA is not driven low if the last pair it saw has it high: so the next
event makes no start condition while undriven DATA is high (R203). It holds at reset. -/
def ObserverAtRest (o : Observer) (r : Regs) : Prop :=
  o.inTxn = false ∧ ∀ p, o.prev = some p → p.dio = true → r.dioOe = true → r.dioO = true

/-- The wire is ready for the word `w`: both lines are driven high and the observer saw no less (R35); or `w` is an
`INIT`, the pins are whatever they are, and undriven DATA is pulled up until `LINES_INIT` has run (R202, R203). -/
def WireReady (w : CommandWord) (s : State) : Prop :=
  (pinsOf s.regs = idlePins ∧ ObserverIdle s.obs) ∨
  (opField w = 0 ∧ ObserverAtRest s.obs s.regs ∧ PulledUpForLinesInit s.script.tail)

/-- In an open transaction the edges, the bits and the bytes keep step: nine edges to a byte (R64, R139). -/
def ObserverAligned (o : Observer) : Prop :=
  o.inTxn = true → o.bits.length = (if o.k % 9 = 8 then 0 else o.k % 9) ∧ o.bytes.length = (o.k + 1) / 9

/-- The receiver's memory is canonical, and it holds a position only while a byte of the transaction is to come. -/
def ReceiverOk (rx : Receiver) : Prop := Memory.wf rx.disp = true ∧ (rx.ptr ≠ none → rx.todo ≠ [])

/-- The same registers but for `ACK_LAST` and `NACK_ANY` (R36). -/
def sameButAck (r r' : Regs) : Prop := { r with ackLast := r'.ackLast, nackAny := r'.nackAny } = r'

/-- The same inputs but for the levels of undriven lines (R36). -/
def sameButLevels (i i' : Inputs) : Prop := { i with envClk := i'.envClk, envDio := i'.envDio } = i'

/-- The `Pin` and `Wait` events of a trace (R36). -/
def pinsAndWaits (t : List Event) : List Event :=
  t.filter fun e => match e with
    | .sample _ => false
    | .pin _ => true
    | .wait => true

end Sys2Proof.Machine
end

