-- ==== Sys2Proof/Certificates/Slice0/Obligations.lean ====
section
/-! DEFINITION. Certificates/Slice0/Obligations.lean: the statements for the provers. Each docstring names the rule of
spec/ it formalises; OBLIGATIONS.json says what each says in words. -/

open Sys2Proof Sys2Proof.Machine

/-! ### Encodings -/

/-- Decoding the code of a well-formed instruction in its code space gives it back (R83, R90, R86 to R89). -/
def Obligations.DecodeOfEncode : Prop :=
  ∀ i : Instr, i.wellFormed = true → decode (codeSpace i) (encode i) = .instr i

/-- Every 19-bit word is one command, which encodes back to it; the row is chosen by the mask 0x70000 (R83, R84, V62). -/
def Obligations.EveryWordIsOneCommand : Prop :=
  ∀ w : CommandWord,
    codeSpace (decodeCommand w) = .command ∧ encode (decodeCommand w) = w.toNat ∧
    rowMatch (decodeCommand w) = w.toNat &&& 0x70000 ∧ (decodeCommand w).wellFormed = true

/-- The decoder rejects exactly the codes that are none (R84, R90, R65). -/
def Obligations.RejectedCodes : Prop :=
  ∀ (sp : CodeSpace) (w : Nat),
    (∃ r, decode sp w = .reject r) ↔
      (2 ^ sp.width ≤ w ∨ (sp = .microOp ∧ 8 ≤ w) ∨ (sp = .wireFirst ∧ (w < 0x40 ∨ (0x40 < w ∧ w < 0x80))))

/-- A few words of the spec decode to what they stand for (R80, R83, V60, V61; R90; R86, R87, R88,
R89). -/
def Obligations.SampleWordsDecode : Prop :=
  decode .command 0x00107 = .instr (.init 1 7) ∧
  decode .command 0x20200 = .instr (.setBrightness 2 0) ∧
  decode .command 0x3025B = .instr (.displaySegments 2 0x5B) ∧
  decode .command 0x7ABCD = .instr (.rsvd7 0xAB 0xCD) ∧
  decode .microOp 0x6 = .instr .dioIn ∧
  decode .wireFirst 0x40 = .instr .cmdData ∧
  decode .wireFirst 0xC3 = .instr (.addr 3) ∧
  decode .wireFirst 0x8F = .instr (.ctl 0x0F) ∧
  decode .wireLater 0x8F = .instr (.segdata 0x8F)

/-! ### One step -/

/-- The step is `exec` of the decoded instruction: at acceptance the command on the port (R121), with a command in
progress the micro-op at `UPC` (R120 S1), and where the block has no step a byte placed before the receiver (log 4,
log 13; the bytes the block sends are taken at their stop condition, `TransactionTakenAtStop`). -/
def Obligations.StepRunsDecodedInstruction : Prop :=
  (∀ (s : State) (i : Instr), s.now.rst = false → s.regs.busy = false → s.now.cmdValid = true →
    decode .command s.now.cmdWord.toNat = .instr i → step s = exec i s) ∧
  (∀ (s : State) (u : MicroOp), s.now.rst = false → s.regs.busy = true → s.regs.dly = false →
    (expansion s.params s.regs)[s.regs.upc.toNat]? = some u →
    step s = exec u.toInstr s ∧ decode .microOp (encode u.toInstr) = .instr u.toInstr) ∧
  (∀ (s : State) (v : Byte) (vs : List Byte) (i : Instr), s.now.rst = false →
    ((s.regs.busy = false ∧ s.now.cmdValid = false) ∨
      (s.regs.busy = true ∧ s.regs.dly = true ∧ s.now.dlyDone = false)) →
    s.rx.refused = false → s.rx.todo = v :: vs →
    decode (if s.rx.ptr = none then .wireFirst else .wireLater) v.toNat = .instr i → step s = exec i s)

/-- The block never faults and never refuses (R180): every instruction answers a next state, and so does every step. R180
gives a step two outcomes, the next state or no step enabled; that an edge where none is enabled (waiting for `dly_done` or
for a command) answers a next state too is the model's choice (log 3, DEDUCED). -/
def Obligations.NeverFaultsNeverRefuses : Prop :=
  (∀ s : State, ∃ t, step s = .next t) ∧ (∀ (i : Instr) (s : State), ∃ t, exec i s = .next t)

/-- The two steps of a command in progress that run no micro-op (R120): S2 ends the delay, S3 ends the command. -/
def Obligations.DelayEndAndCompletion : Prop :=
  (∀ s : State, s.now.rst = false → s.regs.busy = true → s.regs.dly = true → s.now.dlyDone = true →
    step s = .next { s with
      regs := { s.regs with dly := false }, trace := s.trace ++ [.wait], script := s.script.tail, tick := s.tick + 1 }) ∧
  (∀ s : State, s.now.rst = false → s.regs.busy = true → s.regs.dly = false →
    s.regs.upc.toNat = (expansion s.params s.regs).length →
    step s = .next { s with regs := { s.regs with busy := false }, script := s.script.tail, tick := s.tick + 1 })

/-- While `rst` is 1 a step leaves every register at its reset value, whatever else is on the ports and whatever was in
progress (R200, R201, R183 (a)). That the trace begins anew and that the observer and the receiver keep their state is the
model's choice (log 10, log 11). -/
def Obligations.ResetWins : Prop :=
  ∀ s : State, s.now.rst = true →
    step s = .next { s with regs := resetRegs s.params, trace := [], script := s.script.tail, tick := s.tick + 1 }

/-- The registers after reset (R20, R34), what the output ports then carry (V80), and what they carry at any time: a
function of the registers, port by port (R31, R27, R23). -/
def Obligations.ResetState : Prop :=
  State.reset.regs =
    { en := false, brt := 0x00, clkO := false, clkOe := false, dioO := false, dioOe := false, ackLast := true,
      nackAny := false, busy := false, op := 0, a := 0x00, b := 0x00, upc := 0, dly := false } ∧
  outPorts State.reset.regs =
    { cmdReady := true, status := 0b010, clkO := false, clkOe := false, dioO := false, dioOe := false,
      dlyReq := false } ∧
  ∀ r : Regs,
    (outPorts r).status.getLsbD 0 = r.busy ∧ (outPorts r).status.getLsbD 1 = r.ackLast ∧
    (outPorts r).status.getLsbD 2 = r.nackAny ∧ (outPorts r).cmdReady = !r.busy ∧ (outPorts r).dlyReq = r.dly ∧
    (outPorts r).clkO = r.clkO ∧ (outPorts r).clkOe = r.clkOe ∧ (outPorts r).dioO = r.dioO ∧
    (outPorts r).dioOe = r.dioOe

/-- A word offered while `BUSY` = 1 is not accepted and not stored, in the completing step neither (R121, R183 (b),
V72). -/
def Obligations.BusyBlockTakesNoCommand : Prop :=
  ∀ s t : State, s.now.rst = false → s.regs.busy = true → step s = .next t →
    t.regs.op = s.regs.op ∧ t.regs.a = s.regs.a ∧ t.regs.b = s.regs.b ∧ t.regs.en = s.regs.en ∧
    t.regs.brt = s.regs.brt

/-- `dly_done` is ignored while `DLY` = 0, and while no command is in progress (R183 (c), V73). -/
def Obligations.StrayDelayAnswerIgnored : Prop :=
  ∀ (s s' : State) (d : Bool) (l : List Inputs) (i : Inputs), (s.regs.busy = false ∨ s.regs.dly = false) →
    s.script = i :: l → s' = { s with script := { i with dlyDone := d } :: l } → step s' = step s

/-- As long as the delay timer does not answer, nothing moves in the block and `cmd_ready` stays 0; only reset ends it;
and nothing else holds a command in progress (R192, V74). -/
def Obligations.UnansweredDelayHoldsTheBlock : Prop :=
  (∀ (n : Nat) (s : State), s.regs.busy = true → s.regs.dly = true → n ≤ s.script.length →
    (∀ i ∈ s.script.take n, i.rst = false ∧ i.dlyDone = false) →
    ∃ t, Host.Core.run core n s = .next t ∧ t.regs = s.regs ∧ t.trace = s.trace ∧ t.obs = s.obs ∧
      cmdReady t.regs = false) ∧
  (∀ s : State, s.now.rst = true → ∃ t, step s = .next t ∧ cmdReady t.regs = true) ∧
  (∀ s : State, SequencerOk s → s.regs.busy = true → s.now.rst = false → (s.regs.dly = false ∨ s.now.dlyDone = true) →
    ∃ t, step s = .next t ∧ t.regs ≠ s.regs)

/-- Where the block has no step enabled its registers stay, whatever the environment and the receiver do (R61, R180). -/
def Obligations.EnvironmentWritesNoRegister : Prop :=
  ∀ s t : State, s.now.rst = false → blockMove s.params s.regs s.now = none → step s = .next t →
    t.regs = s.regs ∧ t.trace = s.trace ∧ t.obs = s.obs ∧ t.params = s.params

/-! ### The commands -/

/-- `INIT` (R151): the held configuration, the latches, and the 38 micro-ops it will run; nothing else changes. -/
def Obligations.InitEffect : Prop :=
  ∀ (a b : Byte) (s : State), ∃ t, exec (.init a b) s = .next t ∧
    t = { s with
      regs := { s.regs with
        en := a != 0, brt := b, op := 0, a := a, b := b, upc := 0, nackAny := false, busy := true }
      script := s.script.tail, tick := s.tick + 1 } ∧
    expansion t.params t.regs = linesInit ++ txn [ctlByte (a != 0) b] ∧
    (expansion t.params t.regs).length = 38 ∧ (expansion t.params t.regs).countP MicroOp.isPin = 37

/-- `ENABLE` (R152): the flag changes, the brightness is kept, the control byte carries both. -/
def Obligations.EnableEffect : Prop :=
  ∀ (a b : Byte) (s : State), ∃ t, exec (.enable a b) s = .next t ∧
    t = { s with
      regs := { s.regs with
        en := a != 0, op := 1, a := a, b := b, upc := 0, nackAny := false, busy := true }
      script := s.script.tail, tick := s.tick + 1 } ∧
    expansion t.params t.regs = txn [ctlByte (a != 0) s.regs.brt] ∧
    (expansion t.params t.regs).length = 34 ∧ (expansion t.params t.regs).countP MicroOp.isPin = 33

/-- `SET_BRIGHTNESS` (R153): the brightness changes unclamped, the flag is kept, the control byte carries both. -/
def Obligations.SetBrightnessEffect : Prop :=
  ∀ (a b : Byte) (s : State), ∃ t, exec (.setBrightness a b) s = .next t ∧
    t = { s with
      regs := { s.regs with brt := a, op := 2, a := a, b := b, upc := 0, nackAny := false, busy := true }
      script := s.script.tail, tick := s.tick + 1 } ∧
    expansion t.params t.regs = txn [ctlByte s.regs.en a] ∧
    (expansion t.params t.regs).length = 34 ∧ (expansion t.params t.regs).countP MicroOp.isPin = 33

/-- `DISPLAY_SEGMENTS`, `DISPLAY_DIGIT`, `DISPLAY_COLON` (R161, R162, R163): only the latches change at acceptance, `EN`
and `BRT` are kept; each then runs one addressed write. -/
def Obligations.DisplayWriteEffect : Prop :=
  ∀ (a b : Byte) (s : State),
    (∃ t, exec (.displaySegments a b) s = .next t ∧
      t = { s with
        regs := { s.regs with op := 3, a := a, b := b, upc := 0, nackAny := false, busy := true }
        script := s.script.tail, tick := s.tick + 1 } ∧
      expansion t.params t.regs = dseg a b s.regs.en s.regs.brt) ∧
    (∃ t, exec (.displayDigit a b) s = .next t ∧
      t = { s with
        regs := { s.regs with op := 4, a := a, b := b, upc := 0, nackAny := false, busy := true }
        script := s.script.tail, tick := s.tick + 1 } ∧
      expansion t.params t.regs =
        dseg a (s.params.segrom.toList.getD (b &&& 0x0F).toNat 0) s.regs.en s.regs.brt) ∧
    (∃ t, exec (.displayColon a b) s = .next t ∧
      t = { s with
        regs := { s.regs with op := 5, a := a, b := b, upc := 0, nackAny := false, busy := true }
        script := s.script.tail, tick := s.tick + 1 } ∧
      expansion t.params t.regs = dseg 1 (if a = 0 then 0x00 else 0xFF) s.regs.en s.regs.brt)

/-- `CLEAR` (R164): only the latches change at acceptance; it then writes 0x00 to the four positions in order. -/
def Obligations.ClearEffect : Prop :=
  ∀ (a b : Byte) (s : State), ∃ t, exec (.clear a b) s = .next t ∧
    t = { s with
      regs := { s.regs with op := 6, a := a, b := b, upc := 0, nackAny := false, busy := true }
      script := s.script.tail, tick := s.tick + 1 } ∧
    expansion t.params t.regs =
      dseg 0 0 s.regs.en s.regs.brt ++ dseg 1 0 s.regs.en s.regs.brt ++ dseg 2 0 s.regs.en s.regs.brt
        ++ dseg 3 0 s.regs.en s.regs.brt

/-- `RSVD7` (R165): accepted like any command, with an empty expansion; the next step without reset completes it, with
no micro-op, no delay, no pin write and no sample. -/
def Obligations.ReservedOpcodeEffect : Prop :=
  ∀ (a b : Byte) (s : State), ∃ t, exec (.rsvd7 a b) s = .next t ∧
    t = { s with
      regs := { s.regs with op := 7, a := a, b := b, upc := 0, nackAny := false, busy := true }
      script := s.script.tail, tick := s.tick + 1 } ∧
    expansion t.params t.regs = [] ∧
    (s.regs.dly = false → t.now.rst = false →
      step t = .next { t with regs := { t.regs with busy := false }, script := t.script.tail, tick := t.tick + 1 })

/-! ### The micro-ops -/

/-- `CLK_LO`, `CLK_HI`, `CLK_OUT` (R111, R112, R115, R119): one bit of one pin register, then the delay, whether or not
the bit changed. `PinEffect` says the rest: the trace (R123), what the observer outside the block sees (R64), and that the
receiver outside the block takes a transaction when the event closes one (R65, R211). -/
def Obligations.ClockMicroOps : Prop :=
  ∀ s : State,
    (∃ t, exec .clkLo s = .next t ∧ PinEffect .clkLo { s.regs with clkO := false } s t) ∧
    (∃ t, exec .clkHi s = .next t ∧ PinEffect .clkHi { s.regs with clkO := true } s t) ∧
    (∃ t, exec .clkOut s = .next t ∧ PinEffect .clkOut { s.regs with clkOe := true } s t)

/-- `DIO_LO`, `DIO_HI`, `DIO_OUT`, `DIO_IN` (R113, R114, R116, R117, R119): as the clock micro-ops; an enable write
leaves the latch. The `DIO_HI` of a `STOP` closes a transaction, and `PinEffect` says that the receiver takes it then. -/
def Obligations.DataMicroOps : Prop :=
  ∀ s : State,
    (∃ t, exec .dioLo s = .next t ∧ PinEffect .dioLo { s.regs with dioO := false } s t) ∧
    (∃ t, exec .dioHi s = .next t ∧ PinEffect .dioHi { s.regs with dioO := true } s t) ∧
    (∃ t, exec .dioOut s = .next t ∧ PinEffect .dioOut { s.regs with dioOe := true } s t) ∧
    (∃ t, exec .dioIn s = .next t ∧ PinEffect .dioIn { s.regs with dioOe := false } s t)

/-- `DIO_RD` (R118, R25, R26): `ACK_LAST` takes the level of `dio_i`, `NACK_ANY` is set by a 1 and never cleared; no pin,
no delay, nothing else. The level is `DIO_O` when DATA is driven; when it is released it is the environment's, but 0 where
the reference receiver is on the wire and this is an acknowledgement slot (R65, log 22). -/
def Obligations.SampleMicroOp : Prop :=
  ∀ s : State, ∃ v : Bool,
    (s.regs.dioOe = true → v = s.regs.dioO) ∧
    (s.regs.dioOe = false → v = if s.rx.answers && s.obs.inAckSlot then false else s.now.envDio) ∧
    exec .dioRd s = .next { s with
      regs := { s.regs with ackLast := v, nackAny := s.regs.nackAny || v, upc := s.regs.upc + 1 }
      trace := s.trace ++ [.sample v], script := s.script.tail, tick := s.tick + 1 }

/-! ### The bytes on the wire, at the reference receiver (R65) -/

/-- `CMD_DATA`: alone in its transaction it sets `MODE`; with a further byte the receiver refuses (R65, R86). -/
def Obligations.DataCommandTaken : Prop :=
  (∀ (s : State) (v : Byte), s.rx.todo = [v] →
    exec .cmdData s = .next { s with
      rx := { s.rx with mode := some 0x40, todo := [], ptr := none }, script := s.script.tail, tick := s.tick + 1 }) ∧
  (∀ (s : State) (v w : Byte) (vs : List Byte), s.rx.todo = v :: w :: vs →
    exec .cmdData s = .next { s with rx := s.rx.refuse, script := s.script.tail, tick := s.tick + 1 })

/-- `ADDR`: with `MODE` written and a position below 4 the further bytes are addressed from it; otherwise the receiver
refuses (R65, R87, U1). -/
def Obligations.AddressTaken : Prop :=
  (∀ (s : State) (p : BitVec 6) (v w m : Byte) (vs : List Byte),
    s.rx.todo = v :: w :: vs → s.rx.mode = some m → p.toNat < 4 →
    exec (.addr p) s = .next { s with
      rx := { s.rx with todo := w :: vs, ptr := some p.toNat }, script := s.script.tail, tick := s.tick + 1 }) ∧
  (∀ (s : State) (p : BitVec 6) (v m : Byte), s.rx.todo = [v] → s.rx.mode = some m → p.toNat < 4 →
    exec (.addr p) s = .next { s with
      rx := { s.rx with todo := [], ptr := none }, script := s.script.tail, tick := s.tick + 1 }) ∧
  (∀ (s : State) (p : BitVec 6), s.rx.mode = none ∨ 4 ≤ p.toNat →
    exec (.addr p) s = .next { s with rx := s.rx.refuse, script := s.script.tail, tick := s.tick + 1 })

/-- `CTL`: alone in its transaction and with bits 4 to 6 clear it is stored in `CTRL`; with bit 4 or 5 set, or with a
further byte, the receiver refuses (R65, R88, U2). That a `CTL` with bit 6 set refuses too is the model's choice (log 23):
on the wire such a byte has bits 7:6 = 0b11 and is read as `ADDR`, so the decoder never yields it. -/
def Obligations.ControlByteTaken : Prop :=
  (∀ (s : State) (x : BitVec 7) (v : Byte), s.rx.todo = [v] →
    x.getLsbD 4 = false → x.getLsbD 5 = false → x.getLsbD 6 = false →
    exec (.ctl x) s = .next { s with
      rx := { s.rx with ctrl := some (0x80 ||| x.setWidth 8), todo := [], ptr := none }
      script := s.script.tail, tick := s.tick + 1 }) ∧
  (∀ (s : State) (x : BitVec 7), (x.getLsbD 4 = true ∨ x.getLsbD 5 = true ∨ x.getLsbD 6 = true) →
    exec (.ctl x) s = .next { s with rx := s.rx.refuse, script := s.script.tail, tick := s.tick + 1 }) ∧
  (∀ (s : State) (x : BitVec 7) (v w : Byte) (vs : List Byte), s.rx.todo = v :: w :: vs →
    exec (.ctl x) s = .next { s with rx := s.rx.refuse, script := s.script.tail, tick := s.tick + 1 })

/-- `SEGDATA`: with an address taken it is stored at that position, every other position reads as before, and the
position goes up by one for a further byte; from position 4 on the receiver refuses (R65, R89). -/
def Obligations.SegmentDataTaken : Prop :=
  (∀ (s : State) (x v : Byte) (p : Nat) (vs : List Byte),
    s.rx.todo = v :: vs → s.rx.ptr = some p → p < 4 →
    ∃ t, exec (.segdata x) s = .next t ∧ memRead t.rx.disp p = some x ∧
      (∀ q, q ≠ p → memRead t.rx.disp q = memRead s.rx.disp q) ∧ t.rx.todo = vs ∧
      t.rx.ptr = (if vs = [] then none else some (p + 1)) ∧
      t.rx.mode = s.rx.mode ∧ t.rx.ctrl = s.rx.ctrl ∧ t.rx.refused = s.rx.refused ∧ t.rx.answers = s.rx.answers ∧
      t.regs = s.regs ∧ t.params = s.params ∧ t.trace = s.trace ∧ t.obs = s.obs ∧
      t.script = s.script.tail ∧ t.tick = s.tick + 1) ∧
  (∀ (s : State) (x : Byte), (s.rx.ptr = none ∨ ∃ p, s.rx.ptr = some p ∧ 4 ≤ p) →
    exec (.segdata x) s = .next { s with rx := s.rx.refuse, script := s.script.tail, tick := s.tick + 1 })

/-- The display changes at the stop condition (R211, R57 (d), R65): the `DIO_HI` that closes a transaction, made from
DATA low under a high CLOCK, makes in that very step the receiver take the whole of it. What it then holds, for each of
the three transactions the block sends; and a micro-op with which no transaction closes leaves the receiver alone. -/
def Obligations.TransactionTakenAtStop : Prop :=
  (∀ (s : State) (bs : List Byte), s.obs.inTxn = true → s.obs.bytes = bs →
    s.obs.prev = some { clk := true, dio := false } → s.regs.clkOe = true → s.regs.clkO = true → s.regs.dioOe = true →
    s.rx.refused = false → s.rx.todo = [] →
    ∃ t, exec .dioHi s = .next t ∧ t.rx.todo = [] ∧
      (bs = [] → t.rx.refused = true) ∧
      (bs = [0x40] → t.rx = { s.rx with mode := some 0x40, ptr := none }) ∧
      (∀ p v : Byte, bs = [addrByte p, v] → p.toNat < 4 → s.rx.mode ≠ none →
        t.rx = { s.rx with disp := memWrite s.rx.disp p.toNat v, ptr := none } ∧
        memRead t.rx.disp p.toNat = some v) ∧
      (∀ (en : Bool) (brt : Byte), bs = [ctlByte en brt] → ctlByte en brt &&& 0x70 = 0 →
        t.rx = { s.rx with ctrl := some (ctlByte en brt), ptr := none })) ∧
  (∀ (u : MicroOp) (s t : State), exec u.toInstr s = .next t → t.obs.out = s.obs.out → t.rx = s.rx)

/-- Who stores to the display memory (R50 (c), R65): a `SEGDATA` byte placed before the receiver stores only at the
position the receiver holds; an instruction with which a transaction closes changes only positions that the transaction
addresses, each to the byte of it that is sent there; every other instruction leaves every position as it was. -/
def Obligations.OnlySegmentDataStores : Prop :=
  ∀ (i : Instr) (s t : State), exec i s = .next t →
    ((∀ v, i ≠ .segdata v) → t.obs.out = s.obs.out → ∀ q, memRead t.rx.disp q = memRead s.rx.disp q) ∧
    (∀ v, i = .segdata v → ∀ q, s.rx.ptr ≠ some q → memRead t.rx.disp q = memRead s.rx.disp q) ∧
    (∀ bs, t.obs.out = s.obs.out ++ [bs] → ∀ q, memRead t.rx.disp q ≠ memRead s.rx.disp q →
      ∃ (b0 : Byte) (vs : List Byte) (p : BitVec 6), bs = b0 :: vs ∧ decode .wireFirst b0.toNat = .instr (.addr p) ∧
        p.toNat ≤ q ∧ q < 4 ∧ vs[q - p.toNat]? = memRead t.rx.disp q)

/-! ### Who writes what -/

/-- Without reset `EN` changes only when an `INIT` or an `ENABLE` is accepted, `BRT` only when an `INIT` or a
`SET_BRIGHTNESS` is, and `OP`, `A`, `B` only at an acceptance (R37, R28). -/
def Obligations.HeldConfigurationWriteRights : Prop :=
  ∀ s t : State, s.now.rst = false → step s = .next t →
    (t.regs.en ≠ s.regs.en → s.regs.busy = false ∧ s.now.cmdValid = true ∧
      (opField s.now.cmdWord = 0 ∨ opField s.now.cmdWord = 1)) ∧
    (t.regs.brt ≠ s.regs.brt → s.regs.busy = false ∧ s.now.cmdValid = true ∧
      (opField s.now.cmdWord = 0 ∨ opField s.now.cmdWord = 2)) ∧
    ((t.regs.op ≠ s.regs.op ∨ t.regs.a ≠ s.regs.a ∨ t.regs.b ≠ s.regs.b) →
      s.regs.busy = false ∧ s.now.cmdValid = true)

/-- Without reset only a pin micro-op at `UPC` of a command in progress changes a pin register, and then as that micro-op
says; no command writes one directly (R23). -/
def Obligations.PinsWrittenByMicroOpsOnly : Prop :=
  ∀ s t : State, s.now.rst = false → step s = .next t → pinsOf t.regs ≠ pinsOf s.regs →
    s.regs.busy = true ∧ s.regs.dly = false ∧
    ∃ u, (expansion s.params s.regs)[s.regs.upc.toNat]? = some u ∧ u.isPin = true ∧
      pinsOf t.regs = (pinsOf s.regs).write u

/-- `CLK_OE` can only rise until reset (R115, R124). -/
def Obligations.ClockEnableOnlyRises : Prop :=
  ∀ s t : State, s.now.rst = false → step s = .next t → s.regs.clkOe = true → t.regs.clkOe = true

/-- Only a command in progress with opcode 0, an `INIT`, can make CLOCK an output (R115, R151, R202, R208). -/
def Obligations.OnlyInitDrivesClock : Prop :=
  ∀ s t : State, s.now.rst = false → step s = .next t → s.regs.clkOe = false → t.regs.clkOe = true →
    s.regs.busy = true ∧ s.regs.op = 0

/-- No step writes a parameter: the ROM is immutable (R51, R63). That the parameters stand in State is the model's choice
(log 16). -/
def Obligations.ParametersNeverWritten : Prop :=
  ∀ s t : State, step s = .next t → t.params = s.params

/-- Without reset `UPC` is zeroed in a step that accepts a command, goes up by exactly 1, without wrapping, in a step that
runs a micro-op, and stays in every other step (R29). -/
def Obligations.UpcCountsStraightOn : Prop :=
  ∀ s t : State, s.now.rst = false → step s = .next t →
    t.regs.upc.toNat =
      if s.regs.busy = false ∧ s.now.cmdValid = true then 0
      else if s.regs.busy = true ∧ s.regs.dly = false ∧ s.regs.upc.toNat < (expansion s.params s.regs).length then
        s.regs.upc.toNat + 1
      else s.regs.upc.toNat

/-- Status independence (R36): two runs from states with the same registers but for `ACK_LAST` and `NACK_ANY`, on inputs
that differ only in the levels of undriven lines, keep the same registers but for those two, and add the same `Pin` and
`Wait` events. -/
def Obligations.StatusIndependence : Prop :=
  ∀ (n : Nat) (s s' : State), sameButAck s.regs s'.regs → s.params = s'.params →
    List.Forall₂ sameButLevels s.script s'.script → n ≤ s.script.length →
    pinsAndWaits s.trace = pinsAndWaits s'.trace →
    ∃ t t', Host.Core.run core n s = .next t ∧ Host.Core.run core n s' = .next t' ∧
      sameButAck t.regs t'.regs ∧ pinsAndWaits t.trace = pinsAndWaits t'.trace

/-! ### Invariants of every step -/

/-- Every step keeps the sequencer's registers in order: no delay without a command, `UPC` never past the expansion
(R121, R120, R29). -/
def Obligations.SequencerOrderKept : Prop :=
  ∀ s t : State, SequencerOk s → step s = .next t → SequencerOk t

/-- Every step keeps the delay rule: every `Pin` of the trace is followed by its `Wait` before any other event, and `DLY`
is 1 exactly while that `Wait` is outstanding (R119, R123). The trace is that since the last reset (log 10). -/
def Obligations.DelayRuleKept : Prop :=
  ∀ s t : State, TraceTimed s → step s = .next t → TraceTimed t

/-- The idle invariant (R35): accepting an `INIT` establishes `Booted`, every step without reset keeps it, and with no
command in progress it says that both lines are driven high. -/
def Obligations.IdleLinesKept : Prop :=
  (∀ (a b : Byte) (s t : State), exec (.init a b) s = .next t → Booted t) ∧
  (∀ s t : State, Booted s → s.now.rst = false → step s = .next t → Booted t) ∧
  (∀ s : State, Booted s → s.regs.busy = false →
    s.regs.clkOe = true ∧ s.regs.clkO = true ∧ s.regs.dioOe = true ∧ s.regs.dioO = true)

/-- Every step keeps the observer's edges, bits and bytes in step: nine edges to a byte (R64). -/
def Obligations.ObserverStaysAligned : Prop :=
  ∀ s t : State, ObserverAligned s.obs → step s = .next t → ObserverAligned t.obs

/-- Every step keeps the receiver's memory canonical (rising positions below 4) and its position only where a byte of the
transaction is still to come (R65); and if the receiver has no byte left to take it has none after the step either, since
a transaction is taken whole when it closes (R211). -/
def Obligations.ReceiverMemoryStaysCanonical : Prop :=
  (∀ s t : State, ReceiverOk s.rx → step s = .next t → ReceiverOk t.rx) ∧
  (∀ s t : State, s.rx.todo = [] → step s = .next t → t.rx.todo = [])

/-- The invariants of every step hold at reset (R34, R64, R65). -/
def Obligations.InvariantsHoldAtReset : Prop :=
  SequencerOk State.reset ∧ TraceTimed State.reset ∧ ObserverAligned State.reset.obs ∧ ReceiverOk State.reset.rx ∧
    State.reset.rx.todo = []

/-! ### Expansions -/

/-- The display-control byte bit by bit, and the spec's examples (R150). -/
def Obligations.ControlByteBits : Prop :=
  (∀ (en : Bool) (brt : Byte),
    (ctlByte en brt).getLsbD 7 = true ∧ (ctlByte en brt).getLsbD 6 = brt.getLsbD 6 ∧
    (ctlByte en brt).getLsbD 5 = brt.getLsbD 5 ∧ (ctlByte en brt).getLsbD 4 = brt.getLsbD 4 ∧
    (ctlByte en brt).getLsbD 3 = (en || brt.getLsbD 3) ∧ (ctlByte en brt).getLsbD 2 = brt.getLsbD 2 ∧
    (ctlByte en brt).getLsbD 1 = brt.getLsbD 1 ∧ (ctlByte en brt).getLsbD 0 = brt.getLsbD 0) ∧
  (∀ (en : Bool) (brt : Byte), brt.toNat ≤ 7 →
    (ctlByte en brt).toNat = (if en then 0x88 else 0x80) + brt.toNat) ∧
  ctlByte true 7 = 0x8F ∧ ctlByte true 0 = 0x88 ∧ ctlByte false 7 = 0x87 ∧ ctlByte false 0 = 0x80 ∧
  ctlByte false 0x0A = 0x8A ∧ ctlByte true 0x10 = 0x98 ∧ ctlByte false 0xFF = 0xFF

/-- The address byte is `0xC0 | A` with the operand taken whole (R87). -/
def Obligations.AddressByteBits : Prop :=
  (∀ a : Byte, (addrByte a).getLsbD 7 = true ∧ (addrByte a).getLsbD 6 = true ∧
    (addrByte a).setWidth 6 = a.setWidth 6) ∧
  addrByte 0 = 0xC0 ∧ addrByte 1 = 0xC1 ∧ addrByte 2 = 0xC2 ∧ addrByte 3 = 0xC3 ∧ addrByte 5 = 0xC5 ∧
  addrByte 0x40 = 0xC0 ∧ addrByte 0xFF = 0xFF

/-- `DISPLAY_DIGIT`, `DISPLAY_COLON` and `CLEAR` are definable from `DISPLAY_SEGMENTS`, for all operands (R93). -/
def Obligations.DisplayCommandsFromSegments : Prop :=
  ∀ (prm : Params) (a b c : Byte) (en : Bool) (brt : Byte),
    expand prm 4 a b en brt = expand prm 3 a (romRead prm (indexOperand b)) en brt ∧
    expand prm 5 a c en brt = expand prm 3 1 (if boolOperand a then 0xFF else 0x00) en brt ∧
    expand prm 6 a b en brt =
      expand prm 3 0 0 en brt ++ expand prm 3 1 0 en brt ++ expand prm 3 2 0 en brt ++ expand prm 3 3 0 en brt

/-- A digit above 15 is masked: `DISPLAY_DIGIT` uses `b & 0x0F` (R162, R82 (d), R51, V3). -/
def Obligations.DigitIsMasked : Prop :=
  ∀ (prm : Params) (a b : Byte) (en : Bool) (brt : Byte),
    expand prm 4 a b en brt = expand prm 4 a (b &&& 0x0F) en brt

/-- The default table (R52; PRESUMED, log 7): the pattern of each digit, and bit 7 clear in every one. -/
def Obligations.DefaultFont : Prop :=
  (List.range 16).map (fun i => romRead defaultParams (BitVec.ofNat 4 i)) =
    [0x3F, 0x06, 0x5B, 0x4F, 0x66, 0x6D, 0x7D, 0x07, 0x7F, 0x6F, 0x77, 0x7C, 0x39, 0x5E, 0x79, 0x71] ∧
  ∀ i : BitVec 4, (romRead defaultParams i).getLsbD 7 = false

/-- An expansion is `LINES_INIT` for `INIT` and then nothing but whole transactions of the three shapes (R95, R122). -/
def Obligations.ExpansionIsItsTransactions : Prop :=
  ∀ (prm : Params) (op : BitVec 3) (a b : Byte) (en : Bool) (brt : Byte),
    expand prm op a b en brt = (if op = 0 then linesInit else []) ++ (wireOf prm op a b en brt).flatMap txn ∧
    ∀ bs ∈ wireOf prm op a b en brt, bs = [0x40] ∨ bs = [ctlByte en brt] ∨ ∃ p s, bs = [addrByte p, s]

/-- Counts per list (R139): delays and samples of each list, and the micro-ops (R135) and rising CLOCK edges of a
transaction of `n` bytes. -/
def Obligations.TransactionCounts : Prop :=
  (startList.countP MicroOp.isPin = 1 ∧ startList.count .dioRd = 0) ∧
  (∀ v, (bitList v).countP MicroOp.isPin = 3 ∧ (bitList v).count .dioRd = 0) ∧
  (ackSlot.countP MicroOp.isPin = 5 ∧ ackSlot.count .dioRd = 1) ∧
  (∀ b, (sendByte b).countP MicroOp.isPin = 29 ∧ (sendByte b).count .dioRd = 1) ∧
  (stopList.countP MicroOp.isPin = 3 ∧ stopList.count .dioRd = 0) ∧
  ∀ bs : List Byte,
    (txn bs).length = 4 + 30 * bs.length ∧ (txn bs).countP MicroOp.isPin = 4 + 29 * bs.length ∧
    (txn bs).count .dioRd = bs.length ∧ (bs ≠ [] → clockRises (txn bs) idlePins = 9 * bs.length + 1)

/-- The clock's shape (R140), in delays: within a byte the nine rising edges are three delays apart, the first of the
next byte comes five after the ninth, and the edge of `STOP` four after it. -/
def Obligations.ClockShape : Prop :=
  ∀ bs : List Byte, bs ≠ [] →
    riseTimes (txn bs) idlePins 0 =
      (List.range bs.length).flatMap (fun j => (List.range 9).map fun i => 29 * j + 4 + 3 * i) ++ [29 * bs.length + 3]

/-- The table of micro-ops, delays, samples, transactions and bytes per command (R209). -/
def Obligations.CommandDurations : Prop :=
  ∀ (prm : Params) (op : BitVec 3) (a b : Byte) (en : Bool) (brt : Byte),
    (expand prm op a b en brt).length =
      (if op = 0 then 38 else if op = 1 ∨ op = 2 then 34 else if op = 6 then 528 else if op = 7 then 0 else 132) ∧
    (expand prm op a b en brt).countP MicroOp.isPin =
      (if op = 0 then 37 else if op = 1 ∨ op = 2 then 33 else if op = 6 then 512 else if op = 7 then 0 else 128) ∧
    (expand prm op a b en brt).count .dioRd = (wireOf prm op a b en brt).flatten.length ∧
    (wireOf prm op a b en brt).flatten.length =
      (if op.toNat ≤ 2 then 1 else if op = 6 then 16 else if op = 7 then 0 else 4) ∧
    (wireOf prm op a b en brt).length =
      (if op.toNat ≤ 2 then 1 else if op = 6 then 12 else if op = 7 then 0 else 3)

/-- The framing property (R138): run from the idle state, a transaction changes DATA's latch or enable under a high CLOCK
exactly twice, the fall of `START` at its first micro-op and the rise of `STOP` at its last; every other DATA write,
whether it changes anything or not, is made under a low CLOCK. -/
def Obligations.FramingEdges : Prop :=
  ∀ bs : List Byte, bs ≠ [] →
    dataMovesUnderHighClock (txn bs) idlePins = [.dioLo, .dioHi] ∧
    dataWritesUnderHighClock (txn bs) idlePins = [.dioLo, .dioHi] ∧
    (txn bs).head? = some .dioLo ∧ (txn bs).getLast? = some .dioHi

/-- Idle in, idle out (R137), and before any `INIT` CLOCK stays undriven and the pins end as R208 says. -/
def Obligations.TransactionPins : Prop :=
  ∀ (bs : List Byte) (p : Pins), bs ≠ [] →
    pinsAfter (txn bs) p = { clkO := true, clkOe := p.clkOe, dioO := true, dioOe := true } ∧
    ∀ n, (pinsAfter ((txn bs).take n) p).clkOe = p.clkOe

/-- `LINES_INIT` (R154): its list, four delays and no sample; it makes the idle state from any pins, writes nothing new
in the idle state, and from the reset state no line shows a driven 0 on the way. -/
def Obligations.LinesInitMakesIdle : Prop :=
  linesInit = [.clkHi, .clkOut, .dioHi, .dioOut] ∧ linesInit.countP MicroOp.isPin = 4 ∧ linesInit.count .dioRd = 0 ∧
  (∀ p : Pins, pinsAfter linesInit p = idlePins) ∧ (∀ n, pinsAfter (linesInit.take n) idlePins = idlePins) ∧
  ∀ n, let q := pinsAfter (linesInit.take n) (pinsOf State.reset.regs)
    (q.clkOe = true → q.clkO = true) ∧ (q.dioOe = true → q.dioO = true)

/-! ### Runs -/

/-- What the wire shows (R141, R137): a transaction that a command in progress runs from the idle state is seen by the
observer as exactly that list of bytes, whatever the environment does to released lines and however long the timer takes;
it leaves the bus idle, and the receiver has taken it (R65, R211). -/
def Obligations.TransactionSeenByObserver : Prop :=
  ∀ (bs : List Byte) (rest : List MicroOp) (n : Nat) (s : State), bs ≠ [] →
    s.regs.busy = true → s.regs.dly = false → pinsOf s.regs = idlePins → ObserverIdle s.obs → s.rx.todo = [] →
    s.regs.upc.toNat ≤ (expansion s.params s.regs).length →
    (expansion s.params s.regs).drop s.regs.upc.toNat = txn bs ++ rest →
    edgesFor false (txn bs) s.script = some n →
    ∃ t, Host.Core.run core n s = .next t ∧ t.obs.out = s.obs.out ++ [bs] ∧ ObserverIdle t.obs ∧
      t.rx = s.rx.takeTxn bs ∧ pinsOf t.regs = idlePins ∧ t.regs.busy = true ∧ t.regs.dly = false ∧
      (expansion t.params t.regs).drop t.regs.upc.toNat = rest

/-- Progress and trace (R125, R123, R26, R25): if the timer answers every delay after a finite time an accepted command
completes: after the acceptance, the edges its expansion takes (one S1 step per micro-op, and after each pin micro-op the
wait up to its S2 step) and one S3 step; its trace is that of its expansion, so it made exactly those steps; `NACK_ANY` is
1 exactly when a sample was 1, and `ACK_LAST` is the last sample. The edges are one per micro-op and one per delay when
the timer answers at once. -/
def Obligations.CommandRunsToCompletion : Prop :=
  (∀ (s : State) (w : CommandWord) (n : Nat), OfferedFor w n s →
    ∃ t tr, Host.Core.run core (n + 2) s = .next t ∧
      t.regs.busy = false ∧ t.regs.dly = false ∧ t.regs.upc.toNat = (wordExpansion s w).length ∧
      t.regs.en = acceptedEn w s.regs.en ∧ t.regs.brt = acceptedBrt w s.regs.brt ∧
      t.regs.op = opField w ∧ t.regs.a = aField w ∧ t.regs.b = bField w ∧
      t.trace = s.trace ++ tr ∧ isTraceOf (wordExpansion s w) tr = true ∧
      t.regs.nackAny = decide (.sample true ∈ tr) ∧ t.regs.ackLast = lastSample s.regs.ackLast tr) ∧
  (∀ (us : List MicroOp) (l : List Inputs), movesOf us ≤ l.length →
    (∀ i ∈ l.take (movesOf us), i.rst = false ∧ i.dlyDone = true) → edgesFor false us l = some (movesOf us))

/-- A command end to end (R95, R122, R125, R141), from the idle bus, or an `INIT` from any pins with undriven DATA pulled
up, as the first command after reset is (R202, R203): when it has completed, the observer has seen exactly its
transactions, in order, whatever was acknowledged, the receiver has taken them (R65), and both lines are driven high
(R35). -/
def Obligations.CommandSendsItsTransactions : Prop :=
  ∀ (s : State) (w : CommandWord) (n : Nat), OfferedFor w n s → WireReady w s → s.rx.todo = [] →
    ∃ t, Host.Core.run core (n + 2) s = .next t ∧ t.regs.busy = false ∧
      pinsOf t.regs = idlePins ∧ ObserverIdle t.obs ∧
      t.obs.out = s.obs.out ++
        wireOf s.params (opField w) (aField w) (bField w) (acceptedEn w s.regs.en) (acceptedBrt w s.regs.brt) ∧
      t.rx = (wireOf s.params (opField w) (aField w) (bField w) (acceptedEn w s.regs.en)
        (acceptedBrt w s.regs.brt)).foldl Receiver.takeTxn s.rx

/-- The reference receiver acknowledges (R65: it "answers every acknowledgement slot with 0"): where it is on the wire
and answers (log 22), a command leaves `NACK_ANY` = 0, and every sample it took was 0, whatever the environment is given
as. -/
def Obligations.ReceiverAcknowledges : Prop :=
  ∀ (s : State) (w : CommandWord) (n : Nat), OfferedFor w n s → WireReady w s → s.rx.answers = true →
    ∃ t tr, Host.Core.run core (n + 2) s = .next t ∧ t.trace = s.trace ++ tr ∧
      isTraceOf (wordExpansion s w) tr = true ∧ .sample true ∉ tr ∧ t.regs.nackAny = false ∧
      (opField w ≠ 7 → t.regs.ackLast = false)

/-- The least time of a trace (R123, R209): `DELAY_US` for every pin micro-op of the expansion it is the trace of. -/
def Obligations.LeastDuration : Prop :=
  ∀ (prm : Params) (us : List MicroOp) (tr : List Event), isTraceOf us tr = true →
    minTimeUs prm tr = prm.delayUs * us.countP MicroOp.isPin

/-- `CLEAR` blanks the display (R164, V6): once a `CLEAR` offered on the idle bus has completed, all four positions of
the reference receiver (R65) read 0x00, from any contents, and `MODE` and `CTRL` hold what was sent, as long as the held
configuration is one the receiver takes (U2). -/
def Obligations.ClearBlanksTheDisplay : Prop :=
  ∀ (s : State) (w : CommandWord) (n : Nat), opField w = 6 → OfferedFor w n s → WireReady w s →
    s.rx.refused = false → s.rx.todo = [] → ctlByte s.regs.en s.regs.brt &&& 0x70 = 0 →
    ∃ t, Host.Core.run core (n + 2) s = .next t ∧ t.regs.busy = false ∧ t.rx.refused = false ∧
      (∀ p, p < 4 → memRead t.rx.disp p = some 0x00) ∧ t.rx.mode = some 0x40 ∧
      t.rx.ctrl = some (ctlByte s.regs.en s.regs.brt)
end

