-- ==== Sys2Proof/Laws/Memory.lean ====
section
/-! SUPPORT. Laws/Memory.lean: the laws of the display memory (20_memory.md R65): a read after a write, and that the
canonical form is kept. -/

namespace Sys2Proof.Machine

/-- A position reads as what was written to it last. -/
theorem memRead_memWrite_same (m : Memory) (p : Nat) (v : Byte) : memRead (memWrite m p v) p = some v := by
  induction m with
  | nil => simp [memWrite, memRead]
  | cons c m ih =>
    obtain ⟨q, w⟩ := c
    simp only [memWrite]
    split
    · simp [memRead]
    · split
      · simp [memRead]
      · simp [memRead, *]

/-- A write leaves every other position as it was. -/
theorem memRead_memWrite_other (m : Memory) {p q : Nat} (v : Byte) (h : q ≠ p) :
    memRead (memWrite m p v) q = memRead m q := by
  induction m with
  | nil => simp [memWrite, memRead, h]
  | cons c m ih =>
    obtain ⟨r, w⟩ := c
    simp only [memWrite]
    split
    · simp [memRead, h]
    · split
      · subst r; simp [memRead, h]
      · simp [memRead, ih]

/-- A write above `lo` keeps the form from `lo` on. -/
theorem memWfFrom_memWrite {lo p : Nat} {m : Memory} (v : Byte) (hm : memWfFrom lo m = true) (hlo : lo ≤ p)
    (hp : p < Config.positionMax) : memWfFrom lo (memWrite m p v) = true := by
  induction m generalizing lo with
  | nil => simp [memWrite, memWfFrom, hlo, hp]
  | cons c m ih =>
    obtain ⟨q, w⟩ := c
    simp only [memWfFrom, Bool.and_eq_true, decide_eq_true_eq] at hm
    simp only [memWrite]
    split
    · rename_i hpq
      simp [memWfFrom, hlo, hp, hm.1.2, hm.2, Nat.succ_le_of_lt hpq]
    · split
      · subst q; simp [memWfFrom, hlo, hp, hm.2]
      · have : q + 1 ≤ p := by omega
        simp [memWfFrom, hm.1.1, hm.1.2, ih hm.2 this]

/-- Every write to a position of the display keeps the canonical form. -/
theorem memWrite_wf {m : Memory} {p : Nat} (v : Byte) (hm : m.wf = true) (hp : p < Config.positionMax) :
    Memory.wf (memWrite m p v) = true := memWfFrom_memWrite v hm (Nat.zero_le p) hp

/-- The display memory is canonical at reset. -/
theorem reset_memory_wf : Memory.wf State.reset.rx.disp = true := rfl

end Sys2Proof.Machine
end

