-- ==== Sys2Proof/Laws/State.lean ====
section
/-! SUPPORT. Laws/State.lean: one lemma per field per operation of Machine/Ops.lean, true by rfl, so that no later proof
unfolds a record update. -/

namespace Sys2Proof.Machine

@[simp] theorem State.advance_regs (s : State) : s.advance.regs = s.regs := rfl
@[simp] theorem State.advance_params (s : State) : s.advance.params = s.params := rfl
@[simp] theorem State.advance_script (s : State) : s.advance.script = s.script.tail := rfl
@[simp] theorem State.advance_tick (s : State) : s.advance.tick = s.tick + 1 := rfl
@[simp] theorem State.advance_trace (s : State) : s.advance.trace = s.trace := rfl
@[simp] theorem State.advance_obs (s : State) : s.advance.obs = s.obs := rfl
@[simp] theorem State.advance_rx (s : State) : s.advance.rx = s.rx := rfl

@[simp] theorem State.setEn_regs (s : State) (v : Bool) : (s.setEn v).regs = { s.regs with en := v } := rfl
@[simp] theorem State.setEn_params (s : State) (v : Bool) : (s.setEn v).params = s.params := rfl
@[simp] theorem State.setEn_script (s : State) (v : Bool) : (s.setEn v).script = s.script := rfl
@[simp] theorem State.setEn_tick (s : State) (v : Bool) : (s.setEn v).tick = s.tick := rfl
@[simp] theorem State.setEn_trace (s : State) (v : Bool) : (s.setEn v).trace = s.trace := rfl
@[simp] theorem State.setEn_obs (s : State) (v : Bool) : (s.setEn v).obs = s.obs := rfl
@[simp] theorem State.setEn_rx (s : State) (v : Bool) : (s.setEn v).rx = s.rx := rfl

@[simp] theorem State.setBrt_regs (s : State) (v : Byte) : (s.setBrt v).regs = { s.regs with brt := v } := rfl
@[simp] theorem State.setBrt_params (s : State) (v : Byte) : (s.setBrt v).params = s.params := rfl
@[simp] theorem State.setBrt_script (s : State) (v : Byte) : (s.setBrt v).script = s.script := rfl
@[simp] theorem State.setBrt_tick (s : State) (v : Byte) : (s.setBrt v).tick = s.tick := rfl
@[simp] theorem State.setBrt_trace (s : State) (v : Byte) : (s.setBrt v).trace = s.trace := rfl
@[simp] theorem State.setBrt_obs (s : State) (v : Byte) : (s.setBrt v).obs = s.obs := rfl
@[simp] theorem State.setBrt_rx (s : State) (v : Byte) : (s.setBrt v).rx = s.rx := rfl

@[simp] theorem State.accept_regs (s : State) (op : BitVec 3) (a b : Byte) : (s.accept op a b).regs = { s.regs with op := op, a := a, b := b, upc := 0, nackAny := false, busy := true } := rfl
@[simp] theorem State.accept_params (s : State) (op : BitVec 3) (a b : Byte) : (s.accept op a b).params = s.params := rfl
@[simp] theorem State.accept_script (s : State) (op : BitVec 3) (a b : Byte) : (s.accept op a b).script = s.script.tail := rfl
@[simp] theorem State.accept_tick (s : State) (op : BitVec 3) (a b : Byte) : (s.accept op a b).tick = s.tick + 1 := rfl
@[simp] theorem State.accept_trace (s : State) (op : BitVec 3) (a b : Byte) : (s.accept op a b).trace = s.trace := rfl
@[simp] theorem State.accept_obs (s : State) (op : BitVec 3) (a b : Byte) : (s.accept op a b).obs = s.obs := rfl
@[simp] theorem State.accept_rx (s : State) (op : BitVec 3) (a b : Byte) : (s.accept op a b).rx = s.rx := rfl

@[simp] theorem State.pinStep_regs (s : State) (u : MicroOp) (r : Regs) : (s.pinStep u r).regs = { r with upc := r.upc + 1, dly := true } := rfl
@[simp] theorem State.pinStep_params (s : State) (u : MicroOp) (r : Regs) : (s.pinStep u r).params = s.params := rfl
@[simp] theorem State.pinStep_script (s : State) (u : MicroOp) (r : Regs) : (s.pinStep u r).script = s.script.tail := rfl
@[simp] theorem State.pinStep_tick (s : State) (u : MicroOp) (r : Regs) : (s.pinStep u r).tick = s.tick + 1 := rfl
@[simp] theorem State.pinStep_trace (s : State) (u : MicroOp) (r : Regs) : (s.pinStep u r).trace = s.trace ++ [.pin u] := rfl
@[simp] theorem State.pinStep_obs (s : State) (u : MicroOp) (r : Regs) : (s.pinStep u r).obs = s.obs.see (s.lines s.regs) (s.lines r) := rfl
@[simp] theorem State.pinStep_rx (s : State) (u : MicroOp) (r : Regs) : (s.pinStep u r).rx = (s.obs.closes (s.lines s.regs) (s.lines r)).foldl Receiver.takeTxn s.rx := rfl

@[simp] theorem State.sampleStep_regs (s : State) : s.sampleStep.regs = { sampleFlags s.regs s.sample with upc := s.regs.upc + 1 } := rfl
@[simp] theorem State.sampleStep_params (s : State) : s.sampleStep.params = s.params := rfl
@[simp] theorem State.sampleStep_script (s : State) : s.sampleStep.script = s.script.tail := rfl
@[simp] theorem State.sampleStep_tick (s : State) : s.sampleStep.tick = s.tick + 1 := rfl
@[simp] theorem State.sampleStep_trace (s : State) : s.sampleStep.trace = s.trace ++ [.sample s.sample] := rfl
@[simp] theorem State.sampleStep_obs (s : State) : s.sampleStep.obs = s.obs := rfl
@[simp] theorem State.sampleStep_rx (s : State) : s.sampleStep.rx = s.rx := rfl

@[simp] theorem State.delayEnd_regs (s : State) : s.delayEnd.regs = { s.regs with dly := false } := rfl
@[simp] theorem State.delayEnd_params (s : State) : s.delayEnd.params = s.params := rfl
@[simp] theorem State.delayEnd_script (s : State) : s.delayEnd.script = s.script.tail := rfl
@[simp] theorem State.delayEnd_tick (s : State) : s.delayEnd.tick = s.tick + 1 := rfl
@[simp] theorem State.delayEnd_trace (s : State) : s.delayEnd.trace = s.trace ++ [.wait] := rfl
@[simp] theorem State.delayEnd_obs (s : State) : s.delayEnd.obs = s.obs := rfl
@[simp] theorem State.delayEnd_rx (s : State) : s.delayEnd.rx = s.rx := rfl

@[simp] theorem State.complete_regs (s : State) : s.complete.regs = { s.regs with busy := false } := rfl
@[simp] theorem State.complete_params (s : State) : s.complete.params = s.params := rfl
@[simp] theorem State.complete_script (s : State) : s.complete.script = s.script.tail := rfl
@[simp] theorem State.complete_tick (s : State) : s.complete.tick = s.tick + 1 := rfl
@[simp] theorem State.complete_trace (s : State) : s.complete.trace = s.trace := rfl
@[simp] theorem State.complete_obs (s : State) : s.complete.obs = s.obs := rfl
@[simp] theorem State.complete_rx (s : State) : s.complete.rx = s.rx := rfl

@[simp] theorem State.resetBlock_regs (s : State) : s.resetBlock.regs = resetRegs s.params := rfl
@[simp] theorem State.resetBlock_params (s : State) : s.resetBlock.params = s.params := rfl
@[simp] theorem State.resetBlock_script (s : State) : s.resetBlock.script = s.script.tail := rfl
@[simp] theorem State.resetBlock_tick (s : State) : s.resetBlock.tick = s.tick + 1 := rfl
@[simp] theorem State.resetBlock_trace (s : State) : s.resetBlock.trace = [] := rfl
@[simp] theorem State.resetBlock_obs (s : State) : s.resetBlock.obs = s.obs := rfl
@[simp] theorem State.resetBlock_rx (s : State) : s.resetBlock.rx = s.rx := rfl

@[simp] theorem State.setRx_regs (s : State) (x : Receiver) : (s.setRx x).regs = s.regs := rfl
@[simp] theorem State.setRx_params (s : State) (x : Receiver) : (s.setRx x).params = s.params := rfl
@[simp] theorem State.setRx_script (s : State) (x : Receiver) : (s.setRx x).script = s.script.tail := rfl
@[simp] theorem State.setRx_tick (s : State) (x : Receiver) : (s.setRx x).tick = s.tick + 1 := rfl
@[simp] theorem State.setRx_trace (s : State) (x : Receiver) : (s.setRx x).trace = s.trace := rfl
@[simp] theorem State.setRx_obs (s : State) (x : Receiver) : (s.setRx x).obs = s.obs := rfl
@[simp] theorem State.setRx_rx (s : State) (x : Receiver) : (s.setRx x).rx = x := rfl

@[simp] theorem State.refuseWire_regs (s : State) : s.refuseWire.regs = s.regs := rfl
@[simp] theorem State.refuseWire_params (s : State) : s.refuseWire.params = s.params := rfl
@[simp] theorem State.refuseWire_script (s : State) : s.refuseWire.script = s.script.tail := rfl
@[simp] theorem State.refuseWire_tick (s : State) : s.refuseWire.tick = s.tick + 1 := rfl
@[simp] theorem State.refuseWire_trace (s : State) : s.refuseWire.trace = s.trace := rfl
@[simp] theorem State.refuseWire_obs (s : State) : s.refuseWire.obs = s.obs := rfl
@[simp] theorem State.refuseWire_rx (s : State) : s.refuseWire.rx = s.rx.refuse := rfl

end Sys2Proof.Machine
end

