-- ==== Sys2Proof/Laws/Ops.lean ====
section
/-! SUPPORT. Laws/Ops.lean: for each shared operation one lemma that says once what it can do, to be cited instead of
unfolding the operation. -/

namespace Sys2Proof.Machine

/-- The script's next sample is what the ports carry. -/
theorem now_of_script {s : State} {i : Inputs} {l : List Inputs} (h : s.script = i :: l) : s.now = i := by
  simp [State.now, h]

/-- Past the script's end the inputs are free. -/
theorem now_of_script_nil {s : State} (h : s.script = []) : s.now = Config.freeInputs s.tick := by
  simp [State.now, h]

/-- What the environment says about reset, the command port and the timer is the sample's own (R31). -/
theorem env_eq (s : State) : s.env = { s.now with envDio := s.env.envDio } := by
  unfold State.env; split <;> rfl

/-- Where the receiver answers, a released DATA line is 0 in an acknowledgement slot (R65). -/
theorem env_answered {s : State} (ha : s.rx.answers = true) (hs : s.obs.inAckSlot = true) : s.env.envDio = false := by
  simp [State.env, ha, hs]

/-- Elsewhere the level is the environment's (R61). -/
theorem env_free {s : State} (h : s.rx.answers = false ∨ s.obs.inAckSlot = false) : s.env = s.now := by
  rcases h with h | h <;> simp [State.env, h]

/-- With both lines driven the environment decides nothing (R24). -/
theorem lines_driven (s : State) {r : Regs} (hc : r.clkOe = true) (hd : r.dioOe = true) :
    s.lines r = { clk := r.clkO, dio := r.dioO } := by
  simp [State.lines, clkLine, dioLine, hc, hd]

/-- What the observer adds to `out` is the transaction that the event closes. -/
theorem see_out (o : Observer) (p q : Lines) : (o.see p q).out = o.out ++ o.closes p q := by
  rcases o with ⟨prev, op, bits, k, bytes, out⟩
  rcases p with ⟨pc, pd⟩
  rcases q with ⟨c, d⟩
  rcases prev with _ | ⟨pc', pd'⟩ <;> rcases op <;>
    simp only [Observer.see, Observer.react, Observer.closes, Observer.start, Option.getD, isStart, isStop,
      Observer.risingEdge] <;>
    (repeat' split) <;> simp_all

/-- What a pair can be to the observer: a start, a stop, a rising edge in a transaction, or nothing. -/
theorem react_cases (o : Observer) (p q : Lines) :
    (isStart p q = true ∧ o.react p q = { o with inTxn := true, bits := [], k := 0, bytes := [] }) ∨
    (isStop p q = true ∧
      o.react p q = { o with inTxn := false, out := if o.inTxn then o.out ++ [o.bytes] else o.out }) ∨
    (p.clk = false ∧ q.clk = true ∧ o.inTxn = true ∧ o.react p q = o.risingEdge q.dio) ∨
    o.react p q = o := by
  unfold Observer.react
  split
  · exact .inl ⟨‹_›, rfl⟩
  · split
    · exact .inr (.inl ⟨‹_›, rfl⟩)
    · split
      · rename_i h
        simp only [Bool.and_eq_true, Bool.not_eq_true'] at h
        exact .inr (.inr (.inl ⟨h.1.1, h.1.2, h.2, rfl⟩))
      · exact .inr (.inr (.inr rfl))

/-- What the expansion of each opcode is (R122). -/
theorem expand_cases (prm : Params) (op : BitVec 3) (a b : Byte) (en : Bool) (brt : Byte) :
    (op = 0#3 ∧ expand prm op a b en brt = linesInit ++ txn [ctlByte en brt]) ∨
    ((op = 1#3 ∨ op = 2#3) ∧ expand prm op a b en brt = txn [ctlByte en brt]) ∨
    (op = 3#3 ∧ expand prm op a b en brt = dseg a b en brt) ∨
    (op = 4#3 ∧ expand prm op a b en brt = dseg a (romRead prm (indexOperand b)) en brt) ∨
    (op = 5#3 ∧ expand prm op a b en brt = dseg 1#8 (colonPattern a) en brt) ∨
    (op = 6#3 ∧ expand prm op a b en brt =
      dseg 0#8 0#8 en brt ++ dseg 1#8 0#8 en brt ++ dseg 2#8 0#8 en brt ++ dseg 3#8 0#8 en brt) ∨
    (op = 7#3 ∧ expand prm op a b en brt = []) := by
  have h : op = 0#3 ∨ op = 1#3 ∨ op = 2#3 ∨ op = 3#3 ∨ op = 4#3 ∨ op = 5#3 ∨ op = 6#3 ∨ op = 7#3 := by
    revert op; decide
  rcases h with rfl | rfl | rfl | rfl | rfl | rfl | rfl | rfl <;> simp [expand]

/-- What a micro-op does (R111 to R118, R120 S1): a pin micro-op writes the pins as `Pins.write` says and no other
register before `pinStep`; `DIO_RD` is the sample. -/
theorem exec_microOp (u : MicroOp) (s : State) :
    (u.isPin = true ∧ ∃ r : Regs, exec u.toInstr s = .next (s.pinStep u r) ∧ pinsOf r = (pinsOf s.regs).write u ∧
      { r with clkO := s.regs.clkO, clkOe := s.regs.clkOe, dioO := s.regs.dioO, dioOe := s.regs.dioOe } = s.regs) ∨
    (u = .dioRd ∧ exec u.toInstr s = .next s.sampleStep) := by
  cases u
  case dioRd => exact .inr ⟨rfl, rfl⟩
  all_goals exact .inl ⟨rfl, _, rfl, rfl, rfl⟩

/-- What a command does at acceptance (R121): the held configuration, then the common part. -/
theorem exec_command (w : CommandWord) (s : State) :
    exec (decodeCommand w) s =
      .next (((s.setEn (acceptedEn w s.regs.en)).setBrt (acceptedBrt w s.regs.brt)).accept
        (opField w) (aField w) (bField w)) := by
  have h : ∀ o : BitVec 3, o = 0#3 ∨ o = 1#3 ∨ o = 2#3 ∨ o = 3#3 ∨ o = 4#3 ∨ o = 5#3 ∨ o = 6#3 ∨ o = 7#3 := by decide
  unfold decodeCommand acceptedEn acceptedBrt
  rcases h (opField w) with h | h | h | h | h | h | h | h <;> rw [h] <;> rfl

end Sys2Proof.Machine
end

