-- ==== Sys2Proof/Laws/PerInstr.lean ====
section
/-! SUPPORT. Laws/PerInstr.lean: a statement about every instruction as syntax, one lemma per constructor. -/

namespace Sys2Proof.Laws.EncodeInRow

/-- The code of an instruction fits its code space and matches its row of spec/opcode_table.json (30_encoding.md R83,
R90, R86 to R89). -/
def Statement (i : Instr) : Prop := encode i < 2 ^ (codeSpace i).width ∧ encode i &&& rowMask i = rowMatch i

/-- The opcode field of an assembled command word is the opcode, as a mask of the word (R80, R83). -/
theorem commandWord_and_mask (op : BitVec 3) (a b : Byte) :
    (commandWord op a b).toNat &&& 0x70000 = op.toNat * 0x10000 := by
  have h : commandWord op a b &&& 0x70000#19 = op.setWidth 19 <<< 16 := by
    ext i hi
    simp only [commandWord, BitVec.getElem_and, BitVec.getElem_or, BitVec.getElem_shiftLeft, BitVec.getElem_setWidth]
    interval_cases i <;> simp
  have h' := congrArg BitVec.toNat h
  rw [BitVec.toNat_and] at h'
  refine h'.trans ?_
  clear h h'
  revert op; decide

/-- Every command word is in its row. -/
theorem command_in_row {i : Instr} (op : BitVec 3) (a b : Byte) (hs : codeSpace i = .command) (hm : rowMask i = 0x70000)
    (he : encode i = (commandWord op a b).toNat) (hr : rowMatch i = op.toNat * 0x10000) : Statement i := by
  refine ⟨?_, ?_⟩
  · rw [hs, he]; exact (commandWord op a b).isLt
  · rw [he, hm, hr]; exact commandWord_and_mask op a b

theorem init (a b : Byte) : Statement (.init a b) := command_in_row 0 a b rfl rfl rfl (by simp [rowMatch])
theorem enable (a b : Byte) : Statement (.enable a b) := command_in_row 1 a b rfl rfl rfl (by simp [rowMatch])
theorem setBrightness (a b : Byte) : Statement (.setBrightness a b) := command_in_row 2 a b rfl rfl rfl (by simp [rowMatch])
theorem displaySegments (a b : Byte) : Statement (.displaySegments a b) := command_in_row 3 a b rfl rfl rfl (by simp [rowMatch])
theorem displayDigit (a b : Byte) : Statement (.displayDigit a b) := command_in_row 4 a b rfl rfl rfl (by simp [rowMatch])
theorem displayColon (a b : Byte) : Statement (.displayColon a b) := command_in_row 5 a b rfl rfl rfl (by simp [rowMatch])
theorem clear (a b : Byte) : Statement (.clear a b) := command_in_row 6 a b rfl rfl rfl (by simp [rowMatch])
theorem rsvd7 (a b : Byte) : Statement (.rsvd7 a b) := command_in_row 7 a b rfl rfl rfl (by simp [rowMatch])
theorem clkLo : Statement .clkLo := by unfold Statement; decide
theorem clkHi : Statement .clkHi := by unfold Statement; decide
theorem dioLo : Statement .dioLo := by unfold Statement; decide
theorem dioHi : Statement .dioHi := by unfold Statement; decide
theorem clkOut : Statement .clkOut := by unfold Statement; decide
theorem dioOut : Statement .dioOut := by unfold Statement; decide
theorem dioIn : Statement .dioIn := by unfold Statement; decide
theorem dioRd : Statement .dioRd := by unfold Statement; decide
theorem cmdData : Statement .cmdData := by unfold Statement; decide
theorem addr (p : BitVec 6) : Statement (.addr p) := by unfold Statement; revert p; decide
theorem ctl (v : BitVec 7) : Statement (.ctl v) := by unfold Statement; revert v; decide
theorem segdata (v : Byte) : Statement (.segdata v) := ⟨v.isLt, Nat.and_zero _⟩

end Sys2Proof.Laws.EncodeInRow
end

