-- ==== Sys2Proof/Laws/Receiver.lean ====
section
/-! SUPPORT. Laws/Receiver.lean: what the reference receiver (20_memory.md R65) can do, said once: with a byte, with each
of the three transactions the block sends, and what it keeps. -/

namespace Sys2Proof.Machine

/-- Taking a byte leaves everything but the place in the transaction alone. -/
theorem pop_fields (rx : Receiver) (p : Option Nat) :
    (rx.pop p).disp = rx.disp ∧ (rx.pop p).mode = rx.mode ∧ (rx.pop p).ctrl = rx.ctrl ∧
      (rx.pop p).refused = rx.refused ∧ (rx.pop p).answers = rx.answers := by
  unfold Receiver.pop
  split <;> simp

/-- After a byte is taken either the transaction is over, or a byte of it is still to come. -/
theorem pop_queue {rx : Receiver} {p : Option Nat} {v : Byte} {vs : List Byte} (h : rx.todo = v :: vs) :
    (vs = [] ∧ (rx.pop p).todo = [] ∧ (rx.pop p).ptr = none) ∨
    (vs ≠ [] ∧ (rx.pop p).todo = vs ∧ (rx.pop p).ptr = p) := by
  rcases vs with _ | ⟨w, ws⟩
  · exact .inl ⟨rfl, by simp [Receiver.pop, h], by simp [Receiver.pop, h]⟩
  · exact .inr ⟨by simp, by simp [Receiver.pop, h], by simp [Receiver.pop, h]⟩

/-- What the first byte of a transaction can be (R65). -/
theorem decodeWireFirst_cases (v : Byte) :
    (v = 0x40#8 ∧ decodeWireFirst v = .instr .cmdData) ∨
    (∃ x, decodeWireFirst v = .instr (.ctl x)) ∨
    (∃ p, decodeWireFirst v = .instr (.addr p)) ∨
    (∃ r, decodeWireFirst v = .reject r) := by
  unfold decodeWireFirst
  split
  · split
    · exact .inl ⟨‹_›, rfl⟩
    · exact .inr (.inr (.inr ⟨_, rfl⟩))
  · exact .inr (.inl ⟨_, rfl⟩)
  · exact .inr (.inr (.inl ⟨_, rfl⟩))
  · exact .inr (.inr (.inr ⟨_, rfl⟩))

/-- A byte on the wire is rejected or is one of the four wire bytes. -/
theorem decodeWire_cases (first : Bool) (v : Byte) :
    (∃ r, decodeWire first v = .reject r) ∨
    ∃ i, decodeWire first v = .instr i ∧ (codeSpace i = .wireFirst ∨ codeSpace i = .wireLater) := by
  cases first
  · exact .inr ⟨.segdata v, rfl, .inr rfl⟩
  · rcases decodeWireFirst_cases v with ⟨_, h⟩ | ⟨_, h⟩ | ⟨_, h⟩ | h
    · exact .inr ⟨_, h, .inl rfl⟩
    · exact .inr ⟨_, h, .inl rfl⟩
    · exact .inr ⟨_, h, .inl rfl⟩
    · exact .inl h

/-- A wire byte makes the receiver refuse, or moves it on by one byte with its registers changed; a position is stored
only below 4. -/
theorem take_cases (rx : Receiver) {i : Instr} (hi : codeSpace i = .wireFirst ∨ codeSpace i = .wireLater) :
    rx.take i = rx.refuse ∨
    ∃ d m c p, rx.take i = { rx with disp := d, mode := m, ctrl := c }.pop p ∧
      (Memory.wf rx.disp = true → Memory.wf d = true) := by
  cases i
  case cmdData =>
    simp only [Receiver.take, Receiver.takeCmdData]; split
    · exact .inr ⟨_, _, _, _, rfl, id⟩
    · exact .inl rfl
  case addr p =>
    simp only [Receiver.take, Receiver.takeAddr]; split
    · exact .inl rfl
    · exact .inr ⟨_, _, _, _, rfl, id⟩
  case ctl x =>
    simp only [Receiver.take, Receiver.takeCtl]; split
    · exact .inr ⟨_, _, _, _, rfl, id⟩
    · exact .inl rfl
  case segdata v =>
    simp only [Receiver.take, Receiver.takeSegdata]; split
    · exact .inl rfl
    · split
      · exact .inl rfl
      · rename_i h
        exact .inr ⟨_, _, _, _, rfl, fun hm => memWrite_wf _ hm (Nat.lt_of_not_le h)⟩
  all_goals exact absurd hi (by simp [codeSpace])

/-- What taking a byte can do: nothing where there is none, else as `take_cases`. -/
theorem takeByte_cases (rx : Receiver) :
    (rx.todo = [] ∧ rx.takeByte = rx) ∨ rx.takeByte = rx.refuse ∨
    ∃ d m c p v vs, rx.todo = v :: vs ∧ rx.takeByte = { rx with disp := d, mode := m, ctrl := c }.pop p ∧
      (Memory.wf rx.disp = true → Memory.wf d = true) := by
  unfold Receiver.takeByte
  rcases h : rx.todo with _ | ⟨v, vs⟩
  · exact .inl (by simp)
  · rcases decodeWire_cases rx.ptr.isNone v with ⟨r, hd⟩ | ⟨i, hd, hi⟩ <;> simp only [hd]
    · exact .inr (.inl trivial)
    · rcases take_cases rx hi with e | ⟨d, m, c, p, e, hm⟩
      · exact .inr (.inl e)
      · exact .inr (.inr ⟨d, m, c, p, v, vs, rfl, h ▸ e, hm⟩)

/-- A refusal keeps the form. -/
theorem refuse_ok {rx : Receiver} (h : ReceiverOk rx) : ReceiverOk rx.refuse := ⟨h.1, by simp [Receiver.refuse]⟩

/-- Moving on in the transaction keeps the form. -/
theorem pop_ok {rx : Receiver} (p : Option Nat) (h : Memory.wf rx.disp = true) : ReceiverOk (rx.pop p) := by
  refine ⟨by rw [(pop_fields rx p).1]; exact h, ?_⟩
  unfold Receiver.pop
  split <;> simp

/-- Every wire byte keeps the receiver's form. -/
theorem take_ok {rx : Receiver} {i : Instr} (hi : codeSpace i = .wireFirst ∨ codeSpace i = .wireLater)
    (h : ReceiverOk rx) : ReceiverOk (rx.take i) := by
  rcases take_cases rx hi with e | ⟨d, m, c, p, e, hm⟩ <;> rw [e]
  · exact refuse_ok h
  · exact pop_ok p (hm h.1)

/-- Taking a byte keeps the receiver's form. -/
theorem takeByte_ok {rx : Receiver} (h : ReceiverOk rx) : ReceiverOk rx.takeByte := by
  rcases takeByte_cases rx with ⟨_, e⟩ | e | ⟨d, m, c, p, v, vs, _, e, hm⟩ <;> rw [e]
  · exact h
  · exact refuse_ok h
  · exact pop_ok p (hm h.1)

/-- Every run of bytes keeps the receiver's form. -/
theorem takeBytes_ok (n : Nat) {rx : Receiver} (h : ReceiverOk rx) : ReceiverOk (Receiver.takeBytes n rx) := by
  induction n generalizing rx with
  | zero => exact h
  | succ n ih => exact ih (takeByte_ok h)

/-- Every transaction keeps the receiver's form. -/
theorem takeTxn_ok {rx : Receiver} (bs : List Byte) (h : ReceiverOk rx) : ReceiverOk (rx.takeTxn bs) := by
  unfold Receiver.takeTxn
  split
  · exact h
  · split
    · exact refuse_ok h
    · exact takeBytes_ok _ ⟨h.1, by simp⟩

/-- Each byte taken leaves fewer to take. -/
theorem takeByte_todo (rx : Receiver) : rx.takeByte.todo.length ≤ rx.todo.length - 1 := by
  rcases takeByte_cases rx with ⟨h, e⟩ | e | ⟨d, m, c, p, v, vs, ht, e, _⟩ <;> rw [e]
  · simp [h]
  · simp [Receiver.refuse]
  · rcases pop_queue (rx := { rx with disp := d, mode := m, ctrl := c }) (p := p) ht with ⟨_, q, _⟩ | ⟨_, q, _⟩ <;>
      rw [q] <;> simp [ht]

/-- As many bytes as there are leave none. -/
theorem takeBytes_todo (n : Nat) (rx : Receiver) (h : rx.todo.length ≤ n) : (Receiver.takeBytes n rx).todo = [] := by
  induction n generalizing rx with
  | zero => exact List.length_eq_zero_iff.mp (Nat.le_zero.mp h)
  | succ n ih => exact ih _ (by have := takeByte_todo rx; omega)

/-- After a transaction the receiver has nothing left to take (R65, R211). -/
theorem takeTxn_todo {rx : Receiver} (bs : List Byte) (h : rx.todo = []) : (rx.takeTxn bs).todo = [] := by
  unfold Receiver.takeTxn
  split
  · exact h
  · split
    · rfl
    · exact takeBytes_todo _ _ (Nat.le_refl _)

/-- Whether the receiver answers the acknowledgement slots is not changed by what it takes. -/
theorem takeBytes_answers (n : Nat) (rx : Receiver) : (Receiver.takeBytes n rx).answers = rx.answers := by
  induction n generalizing rx with
  | zero => rfl
  | succ n ih =>
    refine (ih _).trans ?_
    rcases takeByte_cases rx with ⟨_, e⟩ | e | ⟨d, m, c, p, v, vs, _, e, _⟩ <;> rw [e]
    · rfl
    · exact (pop_fields _ p).2.2.2.2

/-- Whether the receiver answers the acknowledgement slots is not changed by a transaction. -/
theorem takeTxn_answers (rx : Receiver) (bs : List Byte) : (rx.takeTxn bs).answers = rx.answers := by
  unfold Receiver.takeTxn
  split
  · rfl
  · split
    · rfl
    · exact takeBytes_answers _ _

/-- The transaction `[0x40]` (R95): `MODE <- 0x40`. -/
theorem takeTxn_cmdData {rx : Receiver} (h : rx.refused = false) :
    rx.takeTxn [0x40#8] = { rx with mode := some 0x40#8, todo := [], ptr := none } := by
  simp [Receiver.takeTxn, h, Receiver.takeBytes, Receiver.takeByte, decodeWire, decodeWireFirst, Receiver.take,
    Receiver.takeCmdData, Receiver.pop]

/-- The transaction `[ADDR(p), v]` (R95) with `MODE` written and `p` below 4: `DISP[p] <- v`. -/
theorem takeTxn_addr {rx : Receiver} {m : Byte} (h : rx.refused = false) (hm : rx.mode = some m) {p : Byte}
    (hp : p.toNat < Config.positionMax) (v : Byte) :
    rx.takeTxn [addrByte p, v] = { rx with disp := memWrite rx.disp p.toNat v, todo := [], ptr := none } := by
  have key : ∀ p : Byte, p.toNat < 4 → decodeWireFirst (addrByte p) = .instr (.addr (p.setWidth 6)) ∧
      (p.setWidth 6).toNat = p.toNat := by decide
  obtain ⟨hd, hn⟩ := key p hp
  simp [Receiver.takeTxn, h, Receiver.takeBytes, Receiver.takeByte, decodeWire, hd, Receiver.take, Receiver.takeAddr, hm,
    hn, Nat.not_le.mpr hp, Receiver.pop, Receiver.takeSegdata]

/-- The transaction `[CTL(en, brt)]` (R95) with bits 4 to 6 clear: `CTRL <-` the byte. -/
theorem takeTxn_ctl {rx : Receiver} (h : rx.refused = false) {c : Byte} (h7 : c.getLsbD 7 = true)
    (hc : c &&& 0x70#8 = 0#8) : rx.takeTxn [c] = { rx with ctrl := some c, todo := [], ptr := none } := by
  have key : ∀ c : Byte, c.getLsbD 7 = true → c &&& 0x70#8 = 0#8 → decodeWireFirst c = .instr (.ctl (c.setWidth 7)) ∧
      (0x80#8 ||| (c.setWidth 7).setWidth 8) = c := by decide
  obtain ⟨hd, he⟩ := key c h7 hc
  simp [Receiver.takeTxn, h, Receiver.takeBytes, Receiver.takeByte, decodeWire, hd, Receiver.take, Receiver.takeCtl, he,
    hc, Receiver.pop]

/-- An instruction of the wire is run as the receiver takes it. -/
theorem exec_wire {i : Instr} (hi : codeSpace i = .wireFirst ∨ codeSpace i = .wireLater) (s : State) :
    exec i s = .next (s.setRx (s.rx.take i)) := by
  cases i <;> first | rfl | exact absurd hi (by simp [codeSpace])

end Sys2Proof.Machine
end

