-- ==== Sys2Proof/Laws/Step.lean ====
section
/-! SUPPORT. Laws/Step.lean: what a step can be, said once (40_pin_microops.md R120, R121, 70_reset_and_hazards.md R200);
every invariant is a case analysis over `step_cases`. -/

namespace Sys2Proof.Machine

/-- What the receiver can do with what is placed before it (20_memory.md R65, log 4): nothing, refuse, or take the next
byte as the wire instruction it is. -/
def ReceiverTakes (rx rx' : Receiver) : Prop :=
  rx' = rx ∨ (rx.todo ≠ [] ∧ rx' = rx.refuse) ∨
  ∃ v vs i, rx.todo = v :: vs ∧ decodeWire rx.ptr.isNone v = .instr i ∧
    (codeSpace i = .wireFirst ∨ codeSpace i = .wireLater) ∧ rx' = rx.take i

/-- The step at an edge where the block has none: the receiver's record moves and nothing else but the inputs. -/
theorem receiver_step (s : State) :
    ∃ rx, ReceiverTakes s.rx rx ∧ perform (receiverMove s.rx) s = .next (s.setRx rx) := by
  unfold receiverMove
  rcases h : s.rx.refused with _ | _
  · rcases ht : s.rx.todo with _ | ⟨v, vs⟩
    · exact ⟨_, .inl rfl, rfl⟩
    · rcases decodeWire_cases s.rx.ptr.isNone v with ⟨r, hd⟩ | ⟨i, hd, hi⟩
      · exact ⟨_, .inr (.inl ⟨by simp [ht], rfl⟩), by simp only [Bool.false_eq_true, if_false, hd]; rfl⟩
      · exact ⟨_, .inr (.inr ⟨v, vs, i, ht, hd, hi, rfl⟩), by
          simp only [Bool.false_eq_true, if_false, hd, perform, exec_wire hi]⟩
  · exact ⟨_, .inl rfl, rfl⟩

/-- A receiver with nothing placed before it does nothing of its own. -/
theorem receiver_idle {rx rx' : Receiver} (h : ReceiverTakes rx rx') (ht : rx.todo = []) : rx' = rx := by
  rcases h with h | ⟨h, _⟩ | ⟨v, vs, i, e, _⟩
  · exact h
  · exact absurd ht h
  · rw [ht] at e; cases e

/-- Everything a step can be. -/
theorem step_cases {s t : State} (h : step s = .next t) :
    (s.now.rst = true ∧ t = s.resetBlock) ∨
    (s.now.rst = false ∧
      ((s.regs.busy = true ∧ s.regs.dly = true ∧ s.now.dlyDone = true ∧ t = s.delayEnd) ∨
       (∃ u, s.regs.busy = true ∧ s.regs.dly = false ∧
          (expansion s.params s.regs)[s.regs.upc.toNat]? = some u ∧ exec u.toInstr s = .next t) ∨
       (s.regs.busy = true ∧ s.regs.dly = false ∧ s.regs.upc.toNat = (expansion s.params s.regs).length ∧
          t = s.complete) ∨
       (s.regs.busy = false ∧ s.now.cmdValid = true ∧ exec (decodeCommand s.now.cmdWord) s = .next t) ∨
       (blockMove s.params s.regs s.now = none ∧ ∃ rx, ReceiverTakes s.rx rx ∧ t = s.setRx rx))) := by
  unfold step nextMove at h
  rcases hr : s.now.rst with _ | _
  · refine .inr ⟨rfl, ?_⟩
    rw [hr] at h
    rcases hm : blockMove s.params s.regs s.now with _ | m
    · obtain ⟨rx, hrx, he⟩ := receiver_step s
      simp only [hm, Bool.false_eq_true, if_false] at h
      exact .inr (.inr (.inr (.inr ⟨rfl, rx, hrx, by
        have := h.symm.trans he; injection this⟩)))
    · simp only [hm, Bool.false_eq_true, if_false] at h
      unfold blockMove at hm
      split at hm
      · split at hm
        · split at hm
          · cases hm; exact .inl ⟨‹_›, ‹_›, ‹_›, by injection h with h; exact h.symm⟩
          · cases hm
        · rename_i hb hd
          simp only [Bool.not_eq_true] at hd
          split at hm
          · rename_i u hu
            cases hm; exact .inr (.inl ⟨u, hb, hd, hu, h⟩)
          · split at hm
            · cases hm; exact .inr (.inr (.inl ⟨hb, hd, ‹_›, by injection h with h; exact h.symm⟩))
            · cases hm
      · rename_i hb
        simp only [Bool.not_eq_true] at hb
        split at hm
        · cases hm; exact .inr (.inr (.inr (.inl ⟨hb, ‹_›, h⟩)))
        · cases hm
  · left
    rw [hr] at h
    exact ⟨rfl, by simp only [if_true] at h; injection h with h; exact h.symm⟩

end Sys2Proof.Machine
end

