-- ==== Sys2Proof/Tests/Slice0.lean ====
section
/-! SUPPORT. Tests/Slice0.lean: small tests, each on one step or one function, with results taken from the spec's own
examples and vectors (95_test_vectors.md) or written out from its encodings, and the witnesses that the statements'
hypotheses can be met. -/

namespace Sys2Proof.Tests

open Sys2Proof.Machine

/-! ### Helpers -/

/-- Nothing offered, nothing answered. -/
def quiet : Inputs := offerInputs false 0
/-- The timer answers. -/
def answer : Inputs := { quiet with dlyDone := true }
/-- A word is offered and the timer answers. -/
def offer (w : CommandWord) : Inputs := { answer with cmdValid := true, cmdWord := w }
/-- Reset is asserted. -/
def resetting : Inputs := { quiet with rst := true }
/-- The registers in `IDLE(1, 7)` (95_test_vectors.md). -/
def idleRegs : Regs :=
  { resetRegs defaultParams with en := true, brt := 7, clkO := true, clkOe := true, dioO := true, dioOe := true }
/-- A state with given registers and inputs to come. -/
def at_ (r : Regs) (l : List Inputs) : State := { State.reset with regs := r, script := l }
/-- `ENABLE 1` in progress, at micro-op `k`, a delay running or not. -/
def enableAt (k : BitVec 10) (d : Bool) : Regs := { idleRegs with busy := true, op := 1, a := 1, upc := k, dly := d }
/-- The registers of a next state. -/
def regsOf : Host.Outcome State Fault Refusal → Option Regs
  | .next t => some t.regs
  | .fault _ => none
  | .refused _ => none
/-- The receiver of a next state. -/
def rxOf : Host.Outcome State Fault Refusal → Option Receiver
  | .next t => some t.rx
  | .fault _ => none
  | .refused _ => none
/-- The pins after an instruction. -/
def pinsNow (i : Instr) (r : Regs) : Option Pins := (regsOf (exec i (at_ r [quiet]))).map pinsOf
/-- Registers with given pins, in the order of V20 to V31: CLK_O, CLK_OE, DIO_O, DIO_OE. -/
def withPins (a b c d : Bool) : Regs := { idleRegs with clkO := a, clkOe := b, dioO := c, dioOe := d, busy := true }
/-- A receiver with a transaction to take. -/
def rxWith (bs : List Byte) (m : Option Byte) (p : Option Nat) : Receiver :=
  { startReceiver with todo := bs, mode := m, ptr := p }
/-- A state with that receiver, at an edge where the block has no step. -/
def rxState (rx : Receiver) : State := { at_ idleRegs [quiet] with rx := rx }

/-! ### Well-formedness -/

/-- U2: a control byte with bit 6 set is in the address class. -/
theorem test_ctl_bit6_ill_formed : Instr.wellFormed (.ctl 0x40) = false := by decide
theorem test_ctl_documented_well_formed : Instr.wellFormed (.ctl 0x0F) = true := by decide

/-! ### Words written out from the encodings (R80, R83, R90, R86 to R89) -/

/-- R80, V61: 000 00000001 00000111. -/
theorem test_decode_init : decode .command 0b0000000000100000111 = .instr (.init 1 7) := by decide
/-- 001 00000001 00000000. -/
theorem test_decode_enable : decode .command 0b0010000000100000000 = .instr (.enable 1 0) := by decide
/-- 010 00000010 00000000. -/
theorem test_decode_set_brightness : decode .command 0b0100000001000000000 = .instr (.setBrightness 2 0) := by decide
/-- 011 00000010 01011011. -/
theorem test_decode_display_segments :
    decode .command 0b0110000001001011011 = .instr (.displaySegments 2 0x5B) := by decide
/-- 100 00000000 00000101. -/
theorem test_decode_display_digit : decode .command 0b1000000000000000101 = .instr (.displayDigit 0 5) := by decide
/-- 101 00000001 00000000. -/
theorem test_decode_display_colon : decode .command 0b1010000000100000000 = .instr (.displayColon 1 0) := by decide
/-- 110 11111111 11111111: ignored fields are kept (V55). -/
theorem test_decode_clear : decode .command 0b1101111111111111111 = .instr (.clear 0xFF 0xFF) := by decide
/-- 111 10101011 11001101 (V56). -/
theorem test_decode_rsvd7 : decode .command 0b1111010101111001101 = .instr (.rsvd7 0xAB 0xCD) := by decide
/-- R90: codes 0 to 7, in the table's order. -/
theorem test_decode_micro_ops :
    [0b0000, 0b0001, 0b0010, 0b0011, 0b0100, 0b0101, 0b0110, 0b0111].map (decode .microOp) =
      [.instr .clkLo, .instr .clkHi, .instr .dioLo, .instr .dioHi, .instr .clkOut, .instr .dioOut, .instr .dioIn,
        .instr .dioRd] := by decide
/-- R86: 01000000. -/
theorem test_decode_cmd_data : decode .wireFirst 0b01000000 = .instr .cmdData := by decide
/-- R87: 11 000010. -/
theorem test_decode_addr : decode .wireFirst 0b11000010 = .instr (.addr 2) := by decide
/-- R88: 1 0001111. -/
theorem test_decode_ctl : decode .wireFirst 0b10001111 = .instr (.ctl 0x0F) := by decide
/-- R89: 01101101. -/
theorem test_decode_segdata : decode .wireLater 0b01101101 = .instr (.segdata 0x6D) := by decide
/-- V61: the assembled words. -/
theorem test_encode_words :
    [Instr.init 1 7, .enable 1 0, .enable 0 0, .setBrightness 2 0, .displaySegments 2 0x5B, .displayDigit 0 5,
      .displayColon 1 0, .clear 0 0, .rsvd7 0 0].map encode =
    [0x00107, 0x10100, 0x10000, 0x20200, 0x3025B, 0x40005, 0x50100, 0x60000, 0x70000] := by decide
/-- R90 (unused codes), R86, R65: rejected by name; the neighbours of each range are not. -/
theorem test_decode_rejects :
    [decode .command 0x80000, decode .microOp 0x8, decode .microOp 0x10, decode .wireFirst 0x3F,
      decode .wireFirst 0x41, decode .wireFirst 0x7F, decode .wireLater 0x100] =
    [.reject .tooWide, .reject .unusedMicroOp, .reject .tooWide, .reject .noWireClass, .reject .otherDataCommand,
      .reject .otherDataCommand, .reject .tooWide] := by decide
theorem test_decode_bounds_accepted :
    decode .command 0x7FFFF = .instr (.rsvd7 0xFF 0xFF) ∧ decode .wireFirst 0x80 = .instr (.ctl 0) ∧
    decode .wireFirst 0xFF = .instr (.addr 0x3F) := by decide
/-- The table's rows as words of whole bytes (log 12). -/
theorem test_table_words :
    decodeTableWord 24 0x40005 = some (.displayDigit 0 5) ∧ decodeTableWord 8 0x07 = some .dioRd ∧
    decodeTableWord 8 0x40 = some .cmdData ∧ decodeTableWord 8 0xC0 = some (.addr 0) ∧
    decodeTableWord 8 0x80 = some (.ctl 0) ∧ decodeTableWord 8 0x6D = some (.segdata 0x6D) ∧
    decodeTableWord 8 0x08 = none := by decide

/-! ### Placing an instruction: the next step runs it -/

theorem test_place_command : step (State.reset.withFetchWord 24 0x00107) =
    exec (.init 1 7) (State.reset.withFetchWord 24 0x00107) := rfl
theorem test_place_micro_op : step (State.reset.withFetchWord 8 0x06) =
    exec .dioIn (State.reset.withFetchWord 8 0x06) := rfl
theorem test_place_wire_byte : step (State.reset.withFetchWord 8 0xC0) =
    exec (.addr 0) (State.reset.withFetchWord 8 0xC0) := rfl
theorem test_place_segment_byte : step (State.reset.withFetchWord 8 0x6D) =
    exec (.segdata 0x6D) (State.reset.withFetchWord 8 0x6D) := rfl

/-! ### Micro-ops (V20 to V31) -/

theorem test_V20_clk_lo : pinsNow .clkLo (withPins true true false true) = some ⟨false, true, false, true⟩ := by decide
theorem test_V21_clk_hi : pinsNow .clkHi (withPins false true true true) = some ⟨true, true, true, true⟩ := by decide
theorem test_V22_dio_lo : pinsNow .dioLo (withPins true true true true) = some ⟨true, true, false, true⟩ := by decide
theorem test_V23_dio_hi : pinsNow .dioHi (withPins true true false true) = some ⟨true, true, true, true⟩ := by decide
theorem test_V24_clk_out : pinsNow .clkOut (withPins true false false false) = some ⟨true, true, false, false⟩ := by decide
theorem test_V25_dio_out : pinsNow .dioOut (withPins false true true false) = some ⟨false, true, true, true⟩ := by decide
theorem test_V26_dio_in : pinsNow .dioIn (withPins false true false true) = some ⟨false, true, false, false⟩ := by decide
/-- V27: `dio_i` = 0, nothing acknowledged missing. -/
theorem test_V27_dio_rd : (regsOf (exec .dioRd (at_ (withPins true true false false)
    [{ quiet with envDio := false }]))).map (fun r => (r.ackLast, r.nackAny, r.dly)) = some (false, false, false) := by decide
/-- V29: `dio_i` = 0, `NACK_ANY` stays 1. -/
theorem test_V29_dio_rd_sticky : (regsOf (exec .dioRd (at_ { withPins true true false false with nackAny := true }
    [{ quiet with envDio := false }]))).map (fun r => (r.ackLast, r.nackAny)) = some (false, true) := by decide
/-- V30: a redundant write still starts the delay. -/
theorem test_V30_redundant_delay : (regsOf (exec .clkLo (at_ (withPins false true false true) [quiet]))).map (·.dly) =
    some true := by decide

/-! ### Commands at acceptance and what they expand to -/

/-- V42: `INIT 0xFF, 3`: non-zero is true. -/
theorem test_V42_init : (regsOf (exec (.init 0xFF 3) State.reset)).map (fun r => (r.en, r.brt, r.a)) =
    some (true, 3, 0xFF) := by decide
/-- V44: `ENABLE` with an ignored field. -/
theorem test_V44_enable : (regsOf (exec (.enable 0xFF 0x55) (at_ idleRegs []))).map (fun r => (r.en, r.brt, r.a, r.b)) =
    some (true, 7, 0xFF, 0x55) := by decide
/-- V45: `SET_BRIGHTNESS 0x0A` is stored whole. -/
theorem test_V45_set_brightness : (regsOf (exec (.setBrightness 0x0A 0) (at_ idleRegs []))).map (fun r => (r.en, r.brt)) =
    some (true, 0x0A) := by decide
/-- V56: `RSVD7` clears `NACK_ANY` and keeps `ACK_LAST`. -/
theorem test_V56_rsvd7 : (regsOf (exec (.rsvd7 0xAB 0xCD)
    (at_ { idleRegs with ackLast := false, nackAny := true } []))).map (fun r => (r.ackLast, r.nackAny, r.op)) =
    some (false, false, 7) := by decide
/-- V41: control bytes, documented and not. -/
theorem test_V41_ctl : [ctlByte true 0, ctlByte true 3, ctlByte false 0x08, ctlByte true 0x70, ctlByte true 0x40] =
    [0x88, 0x8B, 0x88, 0xF8, 0xC8] := by decide
/-- V36: `SEND_BYTE(0x6D)`. -/
theorem test_V36_send_byte : sendByte 0x6D =
    [.clkLo, .dioHi, .clkHi, .clkLo, .dioLo, .clkHi, .clkLo, .dioHi, .clkHi, .clkLo, .dioHi, .clkHi,
     .clkLo, .dioLo, .clkHi, .clkLo, .dioHi, .clkHi, .clkLo, .dioHi, .clkHi, .clkLo, .dioLo, .clkHi,
     .clkLo, .dioIn, .clkHi, .dioRd, .clkLo, .dioOut] := by decide
/-- V50: `DISPLAY_SEGMENTS 2, 0x5B` from `IDLE(1, 7)`. -/
theorem test_V50_display_segments : wireOf defaultParams 3 2 0x5B true 7 = [[0x40], [0xC2, 0x5B], [0x8F]] := by decide
/-- V52, V53: digit masking and an unmasked position. -/
theorem test_V52_display_digit : wireOf defaultParams 4 5 0x1F true 7 = [[0x40], [0xC5, 0x71], [0x8F]] := by decide
/-- V54: `DISPLAY_COLON` with `a` = 2 and with `a` = 0. -/
theorem test_V54_display_colon : wireOf defaultParams 5 2 0 true 7 = [[0x40], [0xC1, 0xFF], [0x8F]] ∧
    wireOf defaultParams 5 0 0x3C true 7 = [[0x40], [0xC1, 0x00], [0x8F]] := by decide
/-- V55: `CLEAR` with `EN` = 0, `BRT` = 2. -/
theorem test_V55_clear : wireOf defaultParams 6 0xFF 0xFF false 2 =
    [[0x40], [0xC0, 0x00], [0x82], [0x40], [0xC1, 0x00], [0x82], [0x40], [0xC2, 0x00], [0x82], [0x40], [0xC3, 0x00],
      [0x82]] := by decide
/-- V50: the samples of an addressed write stand at indices 28, 62, 92 and 126. -/
theorem test_V50_sample_indices : (List.range 132).filter (fun k => (dseg 2 0x5B true 7)[k]? = some .dioRd) =
    [28, 62, 92, 126] := by decide

/-! ### Wire bytes at the receiver (R65) -/

theorem test_R65_cmd_data : (rxOf (exec .cmdData (rxState (rxWith [0x40] none none)))).map (fun x => (x.mode, x.todo)) =
    some (some 0x40, []) := by decide
theorem test_R65_addr : (rxOf (exec (.addr 3) (rxState (rxWith [0xC3, 0x6D] (some 0x40) none)))).map
    (fun x => (x.ptr, x.refused)) = some (some 3, false) := by decide
/-- U1, V53: position 4 is refused. -/
theorem test_U1_addr_refused : (rxOf (exec (.addr 4) (rxState (rxWith [0xC4, 0xAA] (some 0x40) none)))).map (·.refused) =
    some true := by decide
theorem test_R65_ctl : (rxOf (exec (.ctl 0x0A) (rxState (rxWith [0x8A] none none)))).map (fun x => (x.ctrl, x.refused)) =
    some (some 0x8A, false) := by decide
/-- U2, V43: `[0x98]` is refused. -/
theorem test_U2_ctl_refused : (rxOf (exec (.ctl 0x18) (rxState (rxWith [0x98] none none)))).map (·.refused) =
    some true := by decide
theorem test_R65_segdata : (rxOf (exec (.segdata 0x6D) (rxState (rxWith [0x6D] (some 0x40) (some 3))))).map
    (fun x => (x.disp, x.ptr)) = some ([(3, 0x6D)], none) := by decide

/-! ### Steps -/

/-- V81: reset in mid-command. -/
theorem test_V81_reset : regsOf (step (at_ (enableAt 20 true) [resetting])) = some (resetRegs defaultParams) := by decide
/-- V72: a word offered to a busy block is not taken; the delay ends. -/
theorem test_V72_busy : (regsOf (step (at_ (enableAt 1 true) [offer 0x00107]))) = some (enableAt 1 false) := by decide
/-- V74: no answer, no move. -/
theorem test_V74_stuck : regsOf (step (at_ (enableAt 1 true) [quiet])) = some (enableAt 1 true) := by decide
/-- V75: the last step of `ENABLE 1`. -/
theorem test_V75_complete : regsOf (step (at_ (enableAt 34 false) [quiet])) =
    some { enableAt 34 false with busy := false } := by decide
/-- V1: the `DIO_LO` of `START` from idle is seen as a start condition. -/
theorem test_V1_start_seen : (startObserver.see ⟨true, true⟩ ⟨true, false⟩).inTxn = true := by decide
/-- R64: an empty transaction is a start and a stop with no edge between (V82). -/
theorem test_V82_empty_transaction : ((startObserver.see ⟨true, true⟩ ⟨true, false⟩).see ⟨true, true⟩ ⟨true, true⟩).out = [[]] := by decide
/-- V80: the output ports in reset. -/
theorem test_V80_ports : (outPorts (resetRegs defaultParams)).status = 0b010 ∧
    (outPorts (resetRegs defaultParams)).cmdReady = true := by decide

/-- R211: the `DIO_HI` of a `STOP` closes `[0xC3, 0x6D]`, and the display holds it at once. -/
theorem test_R211_display_changes_at_stop :
    (rxOf (exec .dioHi { at_ { enableAt 33 false with dioO := false } [quiet] with
      obs := { startObserver with prev := some ⟨true, false⟩, inTxn := true, bytes := [0xC3, 0x6D] }
      rx := rxWith [] (some 0x40) none })).map (fun x => (x.disp, x.todo, x.refused)) =
    some ([(3, 0x6D)], [], false) := by decide
/-- R64, U10: from reset with undriven DATA low and CLOCK high, the first event of `INIT` shows no start condition. -/
theorem test_U10_no_start_at_first_event :
    (match exec .clkHi (at_ { resetRegs defaultParams with busy := true } [{ quiet with envDio := false }]) with
      | .next t => some (t.obs.inTxn, t.obs.prev)
      | .fault _ => none
      | .refused _ => none) = some (false, some ⟨true, false⟩) := by decide
/-- R65: where the receiver answers, a sample in the acknowledgement slot reads 0 whatever the environment is. -/
theorem test_R65_slot_answered :
    (regsOf (exec .dioRd { at_ (withPins true true false false) [quiet] with
      obs := { startObserver with prev := some ⟨true, true⟩, inTxn := true, k := 9 }
      rx := { startReceiver with answers := true } })).map (·.ackLast) = some false := by decide

/-! ### The statements' hypotheses can be met -/

theorem test_witness_DecodeOfEncode : Instr.wellFormed (.ctl 0x3F) = true := by decide
theorem test_witness_StepRunsDecodedInstruction_command :
    let s := at_ idleRegs [offer 0x7FFFF]
    s.now.rst = false ∧ s.regs.busy = false ∧ s.now.cmdValid = true ∧
      decode .command s.now.cmdWord.toNat = .instr (.rsvd7 0xFF 0xFF) := by decide
theorem test_witness_StepRunsDecodedInstruction_microOp :
    let s := at_ (enableAt 33 false) [quiet]
    s.now.rst = false ∧ s.regs.busy = true ∧ s.regs.dly = false ∧
      (expansion s.params s.regs)[s.regs.upc.toNat]? = some .dioHi := by decide
theorem test_witness_StepRunsDecodedInstruction_wireByte :
    let s := rxState (rxWith [0xC3, 0x6D] (some 0x40) none)
    s.now.rst = false ∧ s.regs.busy = false ∧ s.now.cmdValid = false ∧ s.rx.refused = false ∧
      s.rx.todo = 0xC3 :: [0x6D] ∧ s.rx.ptr = none ∧ decode .wireFirst (0xC3 : Byte).toNat = .instr (.addr 3) := by
  decide
theorem test_witness_StepRunsDecodedInstruction_laterByte :
    let s := { at_ (enableAt 1 true) [quiet] with rx := rxWith [0x6D] (some 0x40) (some 3) }
    s.now.rst = false ∧ s.regs.busy = true ∧ s.regs.dly = true ∧ s.now.dlyDone = false ∧ s.rx.refused = false ∧
      s.rx.todo = 0x6D :: [] ∧ s.rx.ptr ≠ none ∧ decode .wireLater (0x6D : Byte).toNat = .instr (.segdata 0x6D) := by
  decide
theorem test_witness_DelayEndAndCompletion_delayEnd :
    let s := at_ (enableAt 34 true) [answer]
    s.now.rst = false ∧ s.regs.busy = true ∧ s.regs.dly = true ∧ s.now.dlyDone = true := by decide
theorem test_witness_DelayEndAndCompletion_complete :
    let s := at_ (enableAt 34 false) [quiet]
    s.now.rst = false ∧ s.regs.busy = true ∧ s.regs.dly = false ∧
      s.regs.upc.toNat = (expansion s.params s.regs).length := by decide
theorem test_witness_ResetWins : (at_ (enableAt 20 true) [resetting]).now.rst = true := by decide
theorem test_witness_BusyBlockTakesNoCommand :
    let s := at_ (enableAt 34 false) [offer 0x00107]
    s.now.rst = false ∧ s.regs.busy = true ∧ ∃ t, step s = .next t := ⟨rfl, rfl, _, rfl⟩
theorem test_witness_StrayDelayAnswerIgnored :
    let s := at_ (enableAt 0 false) [answer]
    (s.regs.busy = false ∨ s.regs.dly = false) ∧ s.script = answer :: [] ∧
      { s with script := { answer with dlyDone := false } :: [] } = at_ (enableAt 0 false) [quiet] := by decide
theorem test_witness_UnansweredDelayHoldsTheBlock :
    let s := at_ (enableAt 1 true) [quiet, offerInputs true 0]
    s.regs.busy = true ∧ s.regs.dly = true ∧ 2 ≤ s.script.length ∧
      ∀ i ∈ s.script.take 2, i.rst = false ∧ i.dlyDone = false := by decide
theorem test_witness_UnansweredDelayHoldsTheBlock_reset :
    (at_ (enableAt 1 true) [resetting]).now.rst = true := by decide
theorem test_witness_UnansweredDelayHoldsTheBlock_others :
    let s := at_ (enableAt 34 false) [quiet]
    let s' := at_ (enableAt 1 true) [answer]
    (SequencerOk s ∧ s.regs.busy = true ∧ s.now.rst = false ∧ s.regs.dly = false) ∧
      SequencerOk s' ∧ s'.regs.busy = true ∧ s'.now.rst = false ∧ s'.now.dlyDone = true :=
  ⟨⟨⟨by decide, by decide⟩, rfl, rfl, rfl⟩, ⟨by decide, by decide⟩, rfl, rfl, rfl⟩
theorem test_witness_ControlByteBits : (7 : Byte).toNat ≤ 7 := by decide
theorem test_witness_EnvironmentWritesNoRegister :
    let s := rxState (rxWith [0x40] none none)
    s.now.rst = false ∧ blockMove s.params s.regs s.now = none ∧ ∃ t, step s = .next t := ⟨rfl, rfl, _, rfl⟩
theorem test_witness_ReservedOpcodeEffect :
    let s := at_ idleRegs [offer 0x70000, quiet]
    s.regs.dly = false ∧ (s.accept 7 0 0).now.rst = false := by decide
theorem test_witness_DataCommandTaken : (rxState (rxWith [0x40] none none)).rx.todo = [0x40] ∧
    (rxState (rxWith [0x40, 0x01, 0x02] none none)).rx.todo = 0x40 :: 0x01 :: [0x02] := by decide
theorem test_witness_AddressTaken :
    (let s := rxState (rxWith [0xC3, 0x6D] (some 0x40) none)
     s.rx.todo = 0xC3 :: 0x6D :: [] ∧ s.rx.mode = some 0x40 ∧ (3 : BitVec 6).toNat < 4) ∧
    (let s := rxState (rxWith [0xC0] (some 0x40) none)
     s.rx.todo = [0xC0] ∧ s.rx.mode = some 0x40 ∧ (0 : BitVec 6).toNat < 4) ∧
    ((rxState (rxWith [0xC0] none none)).rx.mode = none ∨ 4 ≤ (0 : BitVec 6).toNat) ∧
    ((rxState (rxWith [0xC4] (some 0x40) none)).rx.mode = none ∨ 4 ≤ (4 : BitVec 6).toNat) := by decide
theorem test_witness_ControlByteTaken :
    ((rxState (rxWith [0x8F] none none)).rx.todo = [0x8F] ∧ (0x0F : BitVec 7).getLsbD 4 = false ∧
      (0x0F : BitVec 7).getLsbD 5 = false ∧ (0x0F : BitVec 7).getLsbD 6 = false) ∧
    ((0x10 : BitVec 7).getLsbD 4 = true ∧ (0x20 : BitVec 7).getLsbD 5 = true ∧ (0x40 : BitVec 7).getLsbD 6 = true) ∧
    (rxState (rxWith [0x8F, 0x8F] none none)).rx.todo = 0x8F :: 0x8F :: [] := by decide
theorem test_witness_SegmentDataTaken :
    (let s := rxState (rxWith [0x6D] (some 0x40) (some 3))
     s.rx.todo = 0x6D :: [] ∧ s.rx.ptr = some 3 ∧ 3 < 4) ∧
    (let s := rxState (rxWith [0x6D, 0x06] (some 0x40) (some 0))
     s.rx.todo = 0x6D :: [0x06] ∧ s.rx.ptr = some 0 ∧ 0 < 4) ∧
    (rxState (rxWith [0x6D] none none)).rx.ptr = none ∧
    (rxState (rxWith [0x6D] (some 0x40) (some 4))).rx.ptr = some 4 ∧ 4 ≤ 4 := by decide
theorem test_witness_OnlySegmentDataStores :
    (∃ t, exec .cmdData (rxState (rxWith [0x40] none none)) = .next t ∧
      t.obs.out = (rxState (rxWith [0x40] none none)).obs.out) ∧ (∀ v, Instr.cmdData ≠ .segdata v) ∧
    (∃ t, exec (.segdata 1) (rxState (rxWith [0x01] (some 0x40) (some 3))) = .next t) ∧
    (rxState (rxWith [0x01] (some 0x40) (some 3))).rx.ptr ≠ some 2 :=
  ⟨⟨_, rfl, rfl⟩, (fun _ h => by cases h), ⟨_, rfl⟩, by decide⟩
/-- The state before the `DIO_HI` of a `STOP` with the transaction `bs` open. -/
def beforeStop (bs : List Byte) : State :=
  { at_ { enableAt 33 false with dioO := false } [quiet] with
    obs := { startObserver with prev := some ⟨true, false⟩, inTxn := true, k := 19, bytes := bs }
    rx := rxWith [] (some 0x40) none }
theorem test_witness_OnlySegmentDataStores_stop :
    ∃ t, exec .dioHi (beforeStop [addrByte 3, 0x6D]) = .next t ∧
      t.obs.out = (beforeStop [addrByte 3, 0x6D]).obs.out ++ [[addrByte 3, 0x6D]] ∧
      memRead t.rx.disp 3 ≠ memRead (beforeStop [addrByte 3, 0x6D]).rx.disp 3 := ⟨_, rfl, by decide, by decide⟩
theorem test_witness_HeldConfigurationWriteRights :
    let s := at_ idleRegs [offer 0x00003]
    s.now.rst = false ∧ ∃ t, step s = .next t ∧ t.regs.en ≠ s.regs.en ∧ t.regs.brt ≠ s.regs.brt ∧ t.regs.b ≠ s.regs.b :=
  ⟨rfl, _, rfl, by decide, by decide, by decide⟩
theorem test_witness_PinsWrittenByMicroOpsOnly :
    let s := at_ (enableAt 0 false) [quiet]
    s.now.rst = false ∧ ∃ t, step s = .next t ∧ pinsOf t.regs ≠ pinsOf s.regs := ⟨rfl, _, rfl, by decide⟩
theorem test_witness_ClockEnableOnlyRises :
    let s := at_ (enableAt 0 false) [quiet]
    s.now.rst = false ∧ (∃ t, step s = .next t) ∧ s.regs.clkOe = true := ⟨rfl, ⟨_, rfl⟩, rfl⟩
theorem test_witness_OnlyInitDrivesClock :
    let s := at_ { resetRegs defaultParams with busy := true, clkO := true, upc := 1 } [quiet]
    s.now.rst = false ∧ ∃ t, step s = .next t ∧ s.regs.clkOe = false ∧ t.regs.clkOe = true :=
  ⟨rfl, _, rfl, rfl, rfl⟩
theorem test_witness_ParametersNeverWritten : ∃ t, step (at_ (enableAt 20 true) [resetting]) = .next t := ⟨_, rfl⟩
theorem test_witness_UpcCountsStraightOn :
    (let s := at_ (enableAt 33 false) [quiet]
     s.now.rst = false ∧ ∃ t, step s = .next t ∧ t.regs.upc = 34) ∧
    (let s := at_ { idleRegs with upc := 34 } [offer 0x10100]
     s.now.rst = false ∧ ∃ t, step s = .next t ∧ t.regs.upc = 0) ∧
    (let s := at_ (enableAt 34 false) [offer 0x10100]
     s.now.rst = false ∧ ∃ t, step s = .next t ∧ t.regs.upc = 34) :=
  ⟨⟨rfl, _, rfl, rfl⟩, ⟨rfl, _, rfl, rfl⟩, rfl, _, rfl, rfl⟩
theorem test_witness_StatusIndependence :
    let s := at_ (enableAt 28 false) [quiet]
    let s' := at_ { enableAt 28 false with ackLast := false, nackAny := true } [{ quiet with envDio := false }]
    sameButAck s.regs s'.regs ∧ s.params = s'.params ∧ List.Forall₂ sameButLevels s.script s'.script ∧
      1 ≤ s.script.length ∧ pinsAndWaits s.trace = pinsAndWaits s'.trace :=
  ⟨rfl, rfl, .cons rfl .nil, by decide, rfl⟩
theorem test_witness_SequencerOrderKept :
    let s := at_ (enableAt 33 false) [quiet]
    SequencerOk s ∧ ∃ t, step s = .next t := ⟨⟨by decide, by decide⟩, _, rfl⟩
theorem test_witness_DelayRuleKept :
    let s := { at_ (enableAt 1 true) [answer] with trace := [.pin .dioLo] }
    TraceTimed s ∧ ∃ t, step s = .next t := ⟨rfl, _, rfl⟩
theorem test_witness_IdleLinesKept :
    (∃ t, exec (.init 1 7) State.reset = .next t) ∧
    (let s := at_ idleRegs [offer 0x10100]
     Booted s ∧ s.now.rst = false ∧ (∃ t, step s = .next t) ∧ s.regs.busy = false) :=
  ⟨⟨_, rfl⟩, ⟨fun _ => rfl, fun h => by cases h⟩, rfl, ⟨_, rfl⟩, rfl⟩
theorem test_witness_ObserverStaysAligned :
    let s := { at_ { enableAt 4 false with clkO := false } [quiet] with
      obs := { startObserver with prev := some ⟨false, true⟩, inTxn := true, bits := [true], k := 1 } }
    ObserverAligned s.obs ∧ s.obs.inTxn = true ∧ ∃ t, step s = .next t := ⟨fun _ => by decide, rfl, _, rfl⟩
theorem test_witness_ReceiverMemoryStaysCanonical :
    let s := rxState { rxWith [0x6D] (some 0x40) (some 3) with disp := [(0, 0x3F)] }
    ReceiverOk s.rx ∧ ∃ t, step s = .next t := ⟨⟨rfl, fun _ => by decide⟩, _, rfl⟩
theorem test_witness_ReceiverMemoryStaysCanonical_empty :
    let s := at_ (enableAt 33 false) [quiet]
    s.rx.todo = [] ∧ ∃ t, step s = .next t := ⟨rfl, _, rfl⟩
theorem test_witness_nonempty_transaction : ([0xC0, 0x6D] : List Byte) ≠ [] := by decide
theorem test_witness_LeastDuration : isTraceOf [.clkHi, .dioRd] [.pin .clkHi, .wait, .sample true] = true := by decide
/-- A timer that answers late: the pattern of samples quiet, quiet, answer. -/
def slow (n : Nat) : List Inputs := (List.replicate n [quiet, quiet, answer]).flatten
theorem test_witness_TransactionTakenAtStop :
    (∀ bs, (beforeStop bs).obs.inTxn = true ∧ (beforeStop bs).obs.bytes = bs ∧
      (beforeStop bs).obs.prev = some { clk := true, dio := false } ∧ (beforeStop bs).regs.clkOe = true ∧
      (beforeStop bs).regs.clkO = true ∧ (beforeStop bs).regs.dioOe = true ∧ (beforeStop bs).rx.refused = false ∧
      (beforeStop bs).rx.todo = [] ∧ (beforeStop bs).rx.mode ≠ none) ∧
    (3 : Byte).toNat < 4 ∧ ctlByte true 0x8F &&& 0x70 = 0 ∧
    ∃ t, exec MicroOp.clkLo.toInstr (at_ idleRegs [quiet]) = .next t ∧ t.obs.out = (at_ idleRegs [quiet]).obs.out :=
  ⟨fun _ => ⟨rfl, rfl, rfl, rfl, rfl, rfl, rfl, rfl, by simp [beforeStop, rxWith]⟩, by decide, by decide, _, rfl, rfl⟩
theorem test_witness_TransactionSeenByObserver :
    let s := at_ (enableAt 0 false) (slow 33)
    ([0x8F] : List Byte) ≠ [] ∧ s.regs.busy = true ∧ s.regs.dly = false ∧ pinsOf s.regs = idlePins ∧ ObserverIdle s.obs ∧
      s.rx.todo = [] ∧ s.regs.upc.toNat ≤ (expansion s.params s.regs).length ∧
      (expansion s.params s.regs).drop s.regs.upc.toNat = txn [0x8F] ++ [] ∧
      edgesFor false (txn [0x8F]) s.script = some 99 :=
  ⟨by decide, rfl, rfl, rfl, ⟨rfl, fun _ h => by cases h⟩, rfl, by decide, by decide, by decide⟩
/-- `ENABLE 1` on the idle bus, with a timer that answers late. -/
theorem test_witness_CommandRunsToCompletion :
    let s := at_ idleRegs (offer 0x10100 :: slow 34)
    OfferedFor 0x10100 99 s ∧ WireReady 0x10100 s ∧ s.rx.todo = [] ∧
      OfferedFor 0x10100 99 { s with rx := { s.rx with answers := true } } :=
  have h : edgesFor false (txn [0x8F]) (slow 34) = some 99 := by decide
  ⟨⟨rfl, rfl, rfl, rfl, rfl, h, quiet, [quiet, answer], by decide, rfl⟩, .inl ⟨rfl, rfl, fun _ h => by cases h⟩, rfl,
    rfl, rfl, rfl, rfl, rfl, h, quiet, [quiet, answer], by decide, rfl⟩
/-- `INIT 1, 7` as the first command after reset (V40), undriven lines pulled up. -/
theorem test_witness_CommandSendsItsTransactions_boot :
    let s := at_ (resetRegs defaultParams) (offer 0x00107 :: List.replicate 76 answer)
    OfferedFor 0x00107 75 s ∧ WireReady 0x00107 s ∧ s.rx.todo = [] :=
  ⟨⟨rfl, rfl, rfl, rfl, rfl, by decide, answer, [], by decide, rfl⟩,
    .inr ⟨rfl, ⟨rfl, fun _ h => by cases h⟩, fun m h => by
      have : m = 8 := by
        have h' : edgesFor false linesInit (List.replicate 76 answer) = some 8 := by decide
        exact Option.some.inj (h.symm.trans h')
      subst this; decide⟩, rfl⟩
theorem test_witness_CommandRunsToCompletion_prompt :
    movesOf linesInit ≤ (List.replicate 8 answer).length ∧
      ∀ i ∈ (List.replicate 8 answer).take (movesOf linesInit), i.rst = false ∧ i.dlyDone = true := by decide
theorem test_witness_ClearBlanksTheDisplay :
    let s := at_ idleRegs (offer 0x60000 :: List.replicate 1041 answer)
    opField 0x60000 = 6 ∧ OfferedFor 0x60000 1040 s ∧ WireReady 0x60000 s ∧ s.rx.refused = false ∧ s.rx.todo = [] ∧
      ctlByte s.regs.en s.regs.brt &&& 0x70 = 0 :=
  ⟨rfl, ⟨rfl, rfl, rfl, rfl, rfl, by decide +kernel, answer, [], by decide +kernel, rfl⟩,
    .inl ⟨rfl, rfl, fun _ h => by cases h⟩, rfl, rfl, by decide⟩

end Sys2Proof.Tests
end

section
/-! SUPPORT. The family 10_state.md: what a micro-op and an acceptance make of the whole state, the block's steps without
reset as one inductive, the pins a command ends with, and the statements about who writes the registers (10_state.md R20
to R37). -/

namespace Sys2Proof.Machine

/-! ### A micro-op and an acceptance as functions of the state -/

/-- The registers with the four pin registers set to `p` (R23). -/
def Regs.withPins (r : Regs) (p : Pins) : Regs :=
  { r with clkO := p.clkO, clkOe := p.clkOe, dioO := p.dioO, dioOe := p.dioOe }

/-- The state after micro-op `u` (R111 to R118): a pin micro-op writes its pin register, `DIO_RD` samples. -/
def State.microStep (s : State) (u : MicroOp) : State :=
  if u.isPin then s.pinStep u (s.regs.withPins ((pinsOf s.regs).write u)) else s.sampleStep

/-- The state after the acceptance of the word `w` (R121). -/
def State.acceptWord (s : State) (w : CommandWord) : State :=
  ((s.setEn (acceptedEn w s.regs.en)).setBrt (acceptedBrt w s.regs.brt)).accept (opField w) (aField w) (bField w)

theorem exec_microOp_eq (u : MicroOp) (s : State) : exec u.toInstr s = .next (s.microStep u) := by
  cases u <;> rfl

theorem exec_decodeCommand_eq (w : CommandWord) (s : State) : exec (decodeCommand w) s = .next (s.acceptWord w) :=
  exec_command w s

theorem eq_dioRd_of_not_isPin {u : MicroOp} (h : u.isPin = false) : u = .dioRd := by
  cases u
  case dioRd => rfl
  all_goals cases h

/-- A pin micro-op as a pin step (R120 S1). -/
theorem microStep_pin (s : State) {u : MicroOp} (h : u.isPin = true) :
    s.microStep u = s.pinStep u (s.regs.withPins ((pinsOf s.regs).write u)) := if_pos h

@[simp] theorem microStep_params (s : State) (u : MicroOp) : (s.microStep u).params = s.params := by cases u <;> rfl
@[simp] theorem microStep_script (s : State) (u : MicroOp) : (s.microStep u).script = s.script.tail := by
  cases u <;> rfl
@[simp] theorem microStep_upc (s : State) (u : MicroOp) : (s.microStep u).regs.upc = s.regs.upc + 1 := by
  cases u <;> rfl
@[simp] theorem microStep_busy (s : State) (u : MicroOp) : (s.microStep u).regs.busy = s.regs.busy := by
  cases u <;> rfl
@[simp] theorem microStep_en (s : State) (u : MicroOp) : (s.microStep u).regs.en = s.regs.en := by cases u <;> rfl
@[simp] theorem microStep_brt (s : State) (u : MicroOp) : (s.microStep u).regs.brt = s.regs.brt := by cases u <;> rfl
@[simp] theorem microStep_op (s : State) (u : MicroOp) : (s.microStep u).regs.op = s.regs.op := by cases u <;> rfl
@[simp] theorem microStep_a (s : State) (u : MicroOp) : (s.microStep u).regs.a = s.regs.a := by cases u <;> rfl
@[simp] theorem microStep_b (s : State) (u : MicroOp) : (s.microStep u).regs.b = s.regs.b := by cases u <;> rfl
@[simp] theorem pinsOf_microStep (s : State) (u : MicroOp) :
    pinsOf (s.microStep u).regs = (pinsOf s.regs).write u := by cases u <;> rfl

/-- A command in progress keeps its expansion through its micro-ops. -/
@[simp] theorem expansion_microStep (s : State) (u : MicroOp) (prm : Params) :
    expansion prm (s.microStep u).regs = expansion prm s.regs := by simp [expansion]

/-- An acceptance writes no pin register (R23). -/
@[simp] theorem pinsOf_accept (s : State) (op : BitVec 3) (a b : Byte) :
    pinsOf (s.accept op a b).regs = pinsOf s.regs := rfl

/-! ### The steps without reset -/

/-- The steps of the machine at an edge without reset (R120, R121), each with the condition under which it is taken; in the
last the block has no step. -/
inductive BlockStep (s : State) : State → Prop
  | delayEnd (busy : s.regs.busy = true) (dly : s.regs.dly = true) : BlockStep s s.delayEnd
  | microOp (u : MicroOp) (busy : s.regs.busy = true) (dly : s.regs.dly = false)
      (atUpc : (expansion s.params s.regs)[s.regs.upc.toNat]? = some u) : BlockStep s (s.microStep u)
  | complete (busy : s.regs.busy = true) (atEnd : s.regs.upc.toNat = (expansion s.params s.regs).length) :
      BlockStep s s.complete
  | accept (busy : s.regs.busy = false) (valid : s.now.cmdValid = true) : BlockStep s (s.acceptWord s.now.cmdWord)
  | none (rx : Receiver) (noMove : blockMove s.params s.regs s.now = none) : BlockStep s (s.setRx rx)

theorem blockStep_of_step {s t : State} (hrst : s.now.rst = false) (h : step s = .next t) : BlockStep s t := by
  rcases step_cases h with ⟨hrst', -⟩ | ⟨-, hstep⟩
  · simp [hrst] at hrst'
  · rcases hstep with ⟨hb, hd, -, rfl⟩ | ⟨u, hb, hd, hu, he⟩ | ⟨hb, -, hlen, rfl⟩ | ⟨hb, hv, he⟩ | ⟨hm, rx, -, rfl⟩
    · exact .delayEnd hb hd
    · obtain rfl : s.microStep u = t := by simpa [exec_microOp_eq] using he
      exact .microOp u hb hd hu
    · exact .complete hb hlen
    · obtain rfl : s.acceptWord s.now.cmdWord = t := by simpa [exec_decodeCommand_eq] using he
      exact .accept hb hv
    · exact .none rx hm

/-- Every step uses up one sample of the input ports (R31). -/
theorem step_script {s t : State} (h : step s = .next t) : t.script = s.script.tail := by
  rcases step_cases h with ⟨-, rfl⟩ | ⟨hrst, -⟩
  · rfl
  · cases blockStep_of_step hrst h with
    | microOp u => exact microStep_script s u
    | delayEnd => rfl
    | complete => rfl
    | accept => rfl
    | none => rfl

/-- Where the block has no step, no command is accepted. -/
theorem no_acceptance_of_blockMove_none {prm : Params} {r : Regs} {i : Inputs} (h : blockMove prm r i = none) :
    ¬(r.busy = false ∧ i.cmdValid = true) := by
  rintro ⟨hb, hv⟩
  simp [blockMove, hb, hv] at h

/-- Where the block has no step, no micro-op is due. -/
theorem no_microOp_of_blockMove_none {prm : Params} {r : Regs} {i : Inputs} (h : blockMove prm r i = none) :
    ¬(r.busy = true ∧ r.dly = false ∧ r.upc.toNat < (expansion prm r).length) := by
  rintro ⟨hb, hd, hlt⟩
  simp [blockMove, hb, hd, List.getElem?_eq_getElem hlt] at h

/-! ### The length of an expansion -/

theorem length_sendByte (b : Byte) : (sendByte b).length = 30 := rfl

theorem length_txn (bs : List Byte) : (txn bs).length = 4 + 30 * bs.length := by
  have h : (bs.flatMap sendByte).length = 30 * bs.length := by
    simp [List.length_flatMap, length_sendByte, Nat.mul_comm]
  simp only [txn, startList, stopList, List.length_append, h, List.length_cons, List.length_nil]
  omega

theorem length_dseg (p v : Byte) (en : Bool) (brt : Byte) : (dseg p v en brt).length = 132 := by
  simp [dseg, length_txn]

/-- The longest expansion is that of `CLEAR` (R209). -/
theorem length_expand_le (prm : Params) (op : BitVec 3) (a b : Byte) (en : Bool) (brt : Byte) :
    (expand prm op a b en brt).length ≤ 528 := by
  rcases expand_cases prm op a b en brt with ⟨-, h⟩ | ⟨-, h⟩ | ⟨-, h⟩ | ⟨-, h⟩ | ⟨-, h⟩ | ⟨-, h⟩ | ⟨-, h⟩ <;>
    simp [h, length_txn, length_dseg, linesInit]

/-- `UPC` does not wrap at a micro-op (R29): its ten bits hold the length of every expansion. -/
theorem toNat_upc_succ {prm : Params} {r : Regs} (h : r.upc.toNat < (expansion prm r).length) :
    (r.upc + 1).toNat = r.upc.toNat + 1 := by
  have hle : (expansion prm r).length ≤ 528 := length_expand_le ..
  exact BitVec.toNat_add_of_lt (by simp; omega)

/-! ### The pins a command ends with -/

theorem pinsAfter_nil (p : Pins) : pinsAfter [] p = p := rfl

theorem pinsAfter_append (us vs : List MicroOp) (p : Pins) :
    pinsAfter (us ++ vs) p = pinsAfter vs (pinsAfter us p) := List.foldl_append

/-- One micro-op further (R120 S1). -/
theorem pinsAfter_take_succ {us : List MicroOp} {k : Nat} {u : MicroOp} (h : us[k]? = some u) (p : Pins) :
    pinsAfter (us.take (k + 1)) p = (pinsAfter (us.take k) p).write u := by
  rw [List.take_add_one, h, pinsAfter_append]
  rfl

theorem pinsAfter_bitList (v : Bool) (p : Pins) : pinsAfter (bitList v) p = { p with clkO := true, dioO := v } := by
  cases v <;> rfl

theorem pinsAfter_ackSlot (p : Pins) : pinsAfter ackSlot p = { p with clkO := false, dioOe := true } := rfl

theorem pinsAfter_startList (p : Pins) : pinsAfter startList p = { p with dioO := false } := rfl

theorem pinsAfter_stopList (p : Pins) : pinsAfter stopList p = { p with clkO := true, dioO := true } := rfl

/-- After a byte CLOCK is low and DATA is driven again, at the level of the last bit (R134). -/
theorem pinsAfter_sendByte (b : Byte) (p : Pins) :
    pinsAfter (sendByte b) p = { clkO := false, clkOe := p.clkOe, dioO := b.getLsbD 7, dioOe := true } := by
  simp [sendByte, pinsAfter_append, pinsAfter_bitList, pinsAfter_ackSlot]

theorem pinsAfter_sendBytes_clkOe (bs : List Byte) (p : Pins) :
    (pinsAfter (bs.flatMap sendByte) p).clkOe = p.clkOe := by
  induction bs generalizing p with
  | nil => rfl
  | cons b bs ih => rw [List.flatMap_cons, pinsAfter_append, ih, pinsAfter_sendByte]

/-- DATA is driven after bytes, if there is one or if it was before. -/
theorem pinsAfter_sendBytes_dioOe {bs : List Byte} {p : Pins} (h : bs ≠ [] ∨ p.dioOe = true) :
    (pinsAfter (bs.flatMap sendByte) p).dioOe = true := by
  induction bs generalizing p with
  | nil => exact h.resolve_left (by simp)
  | cons b bs ih =>
    rw [List.flatMap_cons, pinsAfter_append]
    exact ih (.inr (by rw [pinsAfter_sendByte]))

/-- A transaction ends with both latches high and DATA driven, and leaves the enable of CLOCK (R137). -/
theorem pinsAfter_txn {bs : List Byte} {p : Pins} (h : bs ≠ [] ∨ p.dioOe = true) :
    pinsAfter (txn bs) p = { clkO := true, clkOe := p.clkOe, dioO := true, dioOe := true } := by
  have hdio : (pinsAfter (bs.flatMap sendByte) { p with dioO := false }).dioOe = true := pinsAfter_sendBytes_dioOe h
  rw [txn, pinsAfter_append, pinsAfter_append, pinsAfter_startList, pinsAfter_stopList, pinsAfter_sendBytes_clkOe, hdio]

/-- Idle in, idle out (R137). -/
theorem pinsAfter_txn_idle (bs : List Byte) : pinsAfter (txn bs) idlePins = idlePins := pinsAfter_txn (.inr rfl)

theorem pinsAfter_dseg_idle (p v : Byte) (en : Bool) (brt : Byte) :
    pinsAfter (dseg p v en brt) idlePins = idlePins := by
  simp only [dseg, pinsAfter_append, pinsAfter_txn_idle]

/-- `LINES_INIT` makes the idle state from any pins (R154). -/
theorem pinsAfter_linesInit (p : Pins) : pinsAfter linesInit p = idlePins := rfl

theorem pinsAfter_expand_idle (prm : Params) (op : BitVec 3) (a b : Byte) (en : Bool) (brt : Byte) :
    pinsAfter (expand prm op a b en brt) idlePins = idlePins := by
  rcases expand_cases prm op a b en brt with ⟨-, h⟩ | ⟨-, h⟩ | ⟨-, h⟩ | ⟨-, h⟩ | ⟨-, h⟩ | ⟨-, h⟩ | ⟨-, h⟩ <;>
    simp only [h, pinsAfter_nil, pinsAfter_append, pinsAfter_linesInit, pinsAfter_txn_idle, pinsAfter_dseg_idle]

theorem pinsAfter_expand_init (prm : Params) (a b : Byte) (en : Bool) (brt : Byte) (p : Pins) :
    pinsAfter (expand prm 0 a b en brt) p = idlePins := by
  change pinsAfter (linesInit ++ txn [ctlByte en brt]) p = idlePins
  rw [pinsAfter_append, pinsAfter_linesInit, pinsAfter_txn_idle]

/-- A whole command ends in the idle state, from the idle state or, for an `INIT`, from any pins (R35). -/
theorem pinsAfter_expansion {r : Regs} {p : Pins} (prm : Params) (h : r.op = 0 ∨ p = idlePins) :
    pinsAfter (expansion prm r) p = idlePins := by
  rcases h with h | rfl
  · rw [expansion, h, pinsAfter_expand_init]
  · exact pinsAfter_expand_idle ..

/-! ### The idle invariant (R35) -/

/-- A command accepted on the idle bus, or an `INIT` accepted anywhere, keeps the boot rule. -/
theorem booted_accept {s : State} {op : BitVec 3} (a b : Byte) (h : op = 0 ∨ pinsOf s.regs = idlePins) :
    Booted (s.accept op a b) :=
  ⟨fun hb => by simp at hb, fun _ => ⟨pinsOf s.regs, rfl, h⟩⟩

theorem booted_microStep {s : State} {u : MicroOp} (h : Booted s) (hb : s.regs.busy = true)
    (hu : (expansion s.params s.regs)[s.regs.upc.toNat]? = some u) : Booted (s.microStep u) := by
  obtain ⟨p, hp, hop⟩ := h.2 hb
  have hlt := (List.getElem?_eq_some_iff.mp hu).1
  refine ⟨fun hb' => by simp [hb] at hb', fun _ => ⟨p, ?_, by simpa using hop⟩⟩
  rw [pinsOf_microStep, microStep_params, expansion_microStep, microStep_upc, toNat_upc_succ hlt,
    pinsAfter_take_succ hu, hp]

theorem booted_complete {s : State} (h : Booted s) (hb : s.regs.busy = true)
    (hlen : s.regs.upc.toNat = (expansion s.params s.regs).length) : Booted s.complete := by
  obtain ⟨p, hp, hop⟩ := h.2 hb
  rw [hlen, List.take_length, pinsAfter_expansion _ hop] at hp
  exact ⟨fun _ => hp, fun hb' => by simp at hb'⟩

theorem booted_blockStep {s t : State} (h : Booted s) (hstep : BlockStep s t) : Booted t := by
  cases hstep with
  | delayEnd => exact h
  | microOp u hb _ hu => exact booted_microStep h hb hu
  | complete hb hlen => exact booted_complete h hb hlen
  | accept hb => exact booted_accept _ _ (.inr (h.1 hb))
  | none => exact h

/-- Settles O37: `Booted` is the invariant, and a completed command ends with idle pins. -/
theorem idleLinesKept : Obligations.IdleLinesKept := by
  refine ⟨fun a b s t h => ?_, fun s t h hrst hstep => booted_blockStep h (blockStep_of_step hrst hstep), fun s h hb => ?_⟩
  · obtain rfl : ((s.setEn (boolOperand a)).setBrt (rawOperand b)).accept 0 a b = t := by
      simpa [exec, execInit] using h
    exact booted_accept a b (.inl rfl)
  · have hp := h.1 hb
    simp only [pinsOf, idlePins, Pins.mk.injEq] at hp
    obtain ⟨hclkO, hclkOe, hdioO, hdioOe⟩ := hp
    exact ⟨hclkOe, hclkO, hdioOe, hdioO⟩

/-! ### Who writes the held configuration, the latches, the pins and `UPC` -/

theorem acceptedEn_eq_of_ne {w : CommandWord} {en : Bool} (h : ¬(opField w = 0 ∨ opField w = 1)) :
    acceptedEn w en = en := if_neg h

theorem acceptedBrt_eq_of_ne {w : CommandWord} {brt : Byte} (h : ¬(opField w = 0 ∨ opField w = 2)) :
    acceptedBrt w brt = brt := by
  obtain ⟨h0, h2⟩ := not_or.mp h
  rw [acceptedBrt, if_neg h0, if_neg h2]

/-- Settles O28: of the steps without reset only an acceptance writes these registers, and it writes `EN` and `BRT` as
`acceptedEn` and `acceptedBrt` say. -/
theorem heldConfigurationWriteRights : Obligations.HeldConfigurationWriteRights := by
  intro s t hrst h
  cases blockStep_of_step hrst h with
  | accept hb hv =>
    exact ⟨fun hne => ⟨hb, hv, by_contra fun hop => hne (acceptedEn_eq_of_ne hop)⟩,
      fun hne => ⟨hb, hv, by_contra fun hop => hne (acceptedBrt_eq_of_ne hop)⟩, fun _ => ⟨hb, hv⟩⟩
  | delayEnd => simp
  | microOp u => simp
  | complete => simp
  | none rx => simp

/-- A micro-op that changes the pins is a pin micro-op. -/
theorem isPin_of_write_ne {p : Pins} {u : MicroOp} (h : p.write u ≠ p) : u.isPin = true := by
  by_contra hu
  obtain rfl := eq_dioRd_of_not_isPin (Bool.eq_false_iff.mpr hu)
  exact h rfl

/-- Settles O29: of the steps without reset only a micro-op writes a pin register. -/
theorem pinsWrittenByMicroOpsOnly : Obligations.PinsWrittenByMicroOpsOnly := by
  intro s t hrst h hne
  cases blockStep_of_step hrst h with
  | microOp u hb hd hu =>
    rw [pinsOf_microStep] at hne
    exact ⟨hb, hd, u, hu, isPin_of_write_ne hne, pinsOf_microStep s u⟩
  | delayEnd => exact absurd rfl hne
  | complete => exact absurd rfl hne
  | accept => exact absurd rfl hne
  | none => exact absurd rfl hne

/-- Settles O33: one case for each step without reset; that a micro-op does not wrap `UPC` is `toNat_upc_succ`. -/
theorem upcCountsStraightOn : Obligations.UpcCountsStraightOn := by
  intro s t hrst h
  cases blockStep_of_step hrst h with
  | delayEnd hb hd => simp [hb, hd]
  | microOp u hb hd hu =>
    have hlt := (List.getElem?_eq_some_iff.mp hu).1
    rw [microStep_upc, toNat_upc_succ hlt, if_neg (by simp [hb]), if_pos ⟨hb, hd, hlt⟩]
  | complete hb hlen => simp [hb, hlen]
  | accept hb hv => simp [hb, hv, State.acceptWord]
  | none rx hm => rw [if_neg (no_acceptance_of_blockMove_none hm), if_neg (no_microOp_of_blockMove_none hm)]; rfl

/-! ### Status independence (R36) -/

/-- Two states that R36 does not tell apart: the same but for the two status registers, the levels of undriven lines, the
samples in the trace, and what is outside the block. -/
structure AgreeButStatus (s s' : State) : Prop where
  regs : sameButAck s.regs s'.regs
  params : s.params = s'.params
  script : List.Forall₂ sameButLevels s.script s'.script
  trace : pinsAndWaits s.trace = pinsAndWaits s'.trace

/-- The status registers do not decide what the block does (R36). -/
theorem blockMove_sameButAck {prm : Params} {r r' : Regs} {i i' : Inputs} (hr : sameButAck r r')
    (hi : sameButLevels i i') : blockMove prm r' i' = blockMove prm r i := by
  rw [← hr, ← hi]
  rfl

theorem pinsAndWaits_append (t u : List Event) : pinsAndWaits (t ++ u) = pinsAndWaits t ++ pinsAndWaits u :=
  List.filter_append ..

/-- The moves of the block. -/
theorem blockMove_cases {prm : Params} {r : Regs} {i : Inputs} {m : Move} (h : blockMove prm r i = some m) :
    m = .delayEnd ∨ m = .complete ∨ (∃ u : MicroOp, m = .run u.toInstr) ∨ ∃ w, m = .run (decodeCommand w) := by
  unfold blockMove at h
  split at h
  · split at h
    · split at h <;> cases h
      exact .inl rfl
    · split at h
      · cases h; exact .inr (.inr (.inl ⟨_, rfl⟩))
      · split at h <;> cases h
        exact .inr (.inl rfl)
  · split at h <;> cases h
    exact .inr (.inr (.inr ⟨_, rfl⟩))

section
variable {s s' : State} (h : AgreeButStatus s s')
include h

theorem AgreeButStatus.script_tail : List.Forall₂ sameButLevels s.script.tail s'.script.tail :=
  match s.script, s'.script, h.script with
  | _, _, .nil => .nil
  | _, _, .cons _ hl => hl

theorem AgreeButStatus.resetBlock : AgreeButStatus s.resetBlock s'.resetBlock where
  regs := by rw [State.resetBlock_regs, State.resetBlock_regs, h.params]; rfl
  params := h.params
  script := h.script_tail
  trace := rfl

theorem AgreeButStatus.setRx (rx rx' : Receiver) : AgreeButStatus (s.setRx rx) (s'.setRx rx') where
  regs := h.regs
  params := h.params
  script := h.script_tail
  trace := h.trace

theorem AgreeButStatus.delayEnd : AgreeButStatus s.delayEnd s'.delayEnd where
  regs := by rw [State.delayEnd_regs, State.delayEnd_regs, ← h.regs]; rfl
  params := h.params
  script := h.script_tail
  trace := by simp only [State.delayEnd_trace, pinsAndWaits_append, h.trace]

theorem AgreeButStatus.complete : AgreeButStatus s.complete s'.complete where
  regs := by rw [State.complete_regs, State.complete_regs, ← h.regs]; rfl
  params := h.params
  script := h.script_tail
  trace := h.trace

theorem AgreeButStatus.acceptWord (w : CommandWord) : AgreeButStatus (s.acceptWord w) (s'.acceptWord w) where
  regs := by
    simp only [State.acceptWord, State.accept_regs, State.setBrt_regs, State.setEn_regs]
    rw [← h.regs]
    rfl
  params := h.params
  script := h.script_tail
  trace := h.trace

theorem AgreeButStatus.pinStep {u : MicroOp} (p : Pins) :
    AgreeButStatus (s.pinStep u (s.regs.withPins p)) (s'.pinStep u (s'.regs.withPins p)) where
  regs := by rw [State.pinStep_regs, State.pinStep_regs, ← h.regs]; rfl
  params := h.params
  script := h.script_tail
  trace := by simp only [State.pinStep_trace, pinsAndWaits_append, h.trace]

/-- The two samples may differ; they end in the two status registers and in a `Sample` event only. -/
theorem AgreeButStatus.sampleStep : AgreeButStatus s.sampleStep s'.sampleStep where
  regs := by rw [State.sampleStep_regs, State.sampleStep_regs, ← h.regs]; rfl
  params := h.params
  script := h.script_tail
  trace := by
    rw [State.sampleStep_trace, State.sampleStep_trace, pinsAndWaits_append, pinsAndWaits_append, h.trace]
    rfl

theorem AgreeButStatus.microStep (u : MicroOp) : AgreeButStatus (s.microStep u) (s'.microStep u) := by
  rcases Bool.eq_false_or_eq_true u.isPin with hu | hu
  · have hpins : pinsOf s'.regs = pinsOf s.regs := by rw [← h.regs]; rfl
    rw [microStep_pin s hu, microStep_pin s' hu, hpins]
    exact h.pinStep _
  · obtain rfl := eq_dioRd_of_not_isPin hu
    exact h.sampleStep

/-- Every move of the block keeps the agreement. -/
theorem AgreeButStatus.perform {m : Move} (hm : blockMove s.params s.regs s.now = some m) :
    ∃ t t', perform m s = .next t ∧ perform m s' = .next t' ∧ AgreeButStatus t t' := by
  rcases blockMove_cases hm with rfl | rfl | ⟨u, rfl⟩ | ⟨w, rfl⟩
  · exact ⟨_, _, rfl, rfl, h.delayEnd⟩
  · exact ⟨_, _, rfl, rfl, h.complete⟩
  · exact ⟨_, _, exec_microOp_eq u s, exec_microOp_eq u s', h.microStep u⟩
  · exact ⟨_, _, exec_decodeCommand_eq w s, exec_decodeCommand_eq w s', h.acceptWord w⟩

/-- One step of each of two runs on samples that differ in the levels of undriven lines only. -/
theorem AgreeButStatus.step (hnow : sameButLevels s.now s'.now) :
    ∃ t t', step s = .next t ∧ step s' = .next t' ∧ AgreeButStatus t t' := by
  have hrst : s'.now.rst = s.now.rst := by rw [← hnow]
  have hmove : blockMove s'.params s'.regs s'.now = blockMove s.params s.regs s.now := by
    rw [← h.params, blockMove_sameButAck h.regs hnow]
  unfold Machine.step nextMove
  rw [hrst, hmove]
  rcases s.now.rst with _ | _
  · rcases hm : blockMove s.params s.regs s.now with _ | m
    · obtain ⟨rx, -, hrx⟩ := receiver_step s
      obtain ⟨rx', -, hrx'⟩ := receiver_step s'
      exact ⟨_, _, hrx, hrx', h.setRx rx rx'⟩
    · exact h.perform hm
  · exact ⟨_, _, rfl, rfl, h.resetBlock⟩

end

/-- Two runs on samples that differ in the levels of undriven lines only keep the agreement. -/
theorem AgreeButStatus.run (n : Nat) {s s' : State} (h : AgreeButStatus s s') (hn : n ≤ s.script.length) :
    ∃ t t', Host.Core.run core n s = .next t ∧ Host.Core.run core n s' = .next t' ∧ AgreeButStatus t t' := by
  induction n generalizing s s' with
  | zero => exact ⟨s, s', rfl, rfl, h⟩
  | succ n ih =>
    rcases hs : s.script with _ | ⟨i, l⟩
    · simp [hs] at hn
    · obtain ⟨i', l', hi, -, hs'⟩ := List.forall₂_cons_left_iff.mp (hs ▸ h.script)
      obtain ⟨t, t', ht, ht', hagree⟩ := h.step (by rwa [now_of_script hs, now_of_script hs'])
      rw [run_succ n ht, run_succ n ht']
      exact ih hagree (by rw [step_script ht, hs]; simpa [hs] using hn)

/-- Settles O34, by induction on the number of steps. -/
theorem statusIndependence : Obligations.StatusIndependence := by
  intro n s s' hregs hparams hscript hn htrace
  obtain ⟨t, t', ht, ht', hagree⟩ := AgreeButStatus.run n ⟨hregs, hparams, hscript, htrace⟩ hn
  exact ⟨t, t', ht, ht', hagree.regs, hagree.trace⟩

/-! ### Reset -/

/-- The three bits of a status word, last one first (R31). -/
theorem getLsbD_three_flags (x y z : Bool) :
    (BitVec.ofBool x ++ BitVec.ofBool y ++ BitVec.ofBool z).getLsbD 0 = z ∧
    (BitVec.ofBool x ++ BitVec.ofBool y ++ BitVec.ofBool z).getLsbD 1 = y ∧
    (BitVec.ofBool x ++ BitVec.ofBool y ++ BitVec.ofBool z).getLsbD 2 = x := by
  revert x y z
  decide

/-- Settles O9: all but the status bits is read off the definitions of `resetRegs` and `outPorts`. -/
theorem resetState : Obligations.ResetState := by
  refine ⟨rfl, rfl, fun r => ?_⟩
  obtain ⟨hbusy, hack, hnack⟩ := getLsbD_three_flags r.nackAny r.ackLast r.busy
  exact ⟨hbusy, hack, hnack, rfl, rfl, rfl, rfl, rfl, rfl⟩

/-- At reset no command is in progress and no delay is running (R34). -/
theorem sequencerOk_reset : SequencerOk State.reset := ⟨fun _ => rfl, fun hb => by cases hb⟩

/-- At reset the observer has no open transaction (R64). -/
theorem observerAligned_reset : ObserverAligned State.reset.obs := fun htxn => by cases htxn

/-- At reset every position is unwritten and no transaction is being taken (R65). -/
theorem receiverOk_reset : ReceiverOk State.reset.rx := ⟨reset_memory_wf, fun hptr => absurd rfl hptr⟩

/-- Settles O40: the delay rule holds of the empty trace, and the receiver has nothing to take. -/
theorem invariantsHoldAtReset : Obligations.InvariantsHoldAtReset :=
  ⟨sequencerOk_reset, rfl, observerAligned_reset, receiverOk_reset, rfl⟩

end Sys2Proof.Machine
end

section
/-! SUPPORT. The family 20_memory.md: what a step does outside the block, the observer's counts (20_memory.md R64),
and the bytes and the transactions at the reference receiver (R65). -/

namespace Sys2Proof.Machine

/-! ### What an instruction and a step do to the observer and the receiver -/

/-- How the wire and the receiver go together in a step (R64, R65, R211): no transaction closes and the receiver stays,
or one closes and the receiver takes it. -/
inductive TakenAtClose (s t : State) : Prop
  | stays (out : t.obs.out = s.obs.out) (rx : t.rx = s.rx)
  | closes (bs : List Byte) (out : t.obs.out = s.obs.out ++ [bs]) (rx : t.rx = s.rx.takeTxn bs)

theorem takenAtClose_of_eq {s t : State} (hobs : t.obs = s.obs) (hrx : t.rx = s.rx) : TakenAtClose s t :=
  .stays (by rw [hobs]) hrx

/-- An event closes at most one transaction (R64). -/
theorem closes_cases (o : Observer) (before after : Lines) :
    o.closes before after = [] ∨ o.closes before after = [o.bytes] := by
  unfold Observer.closes
  split
  · exact .inr rfl
  · exact .inl rfl

theorem takenAtClose_pinStep (s : State) (u : MicroOp) (r : Regs) : TakenAtClose s (s.pinStep u r) := by
  have hout := see_out s.obs (s.lines s.regs) (s.lines r)
  rcases closes_cases s.obs (s.lines s.regs) (s.lines r) with h | h
  · exact .stays (by rw [State.pinStep_obs, hout, h, List.append_nil]) (by rw [State.pinStep_rx, h]; rfl)
  · exact .closes s.obs.bytes (by rw [State.pinStep_obs, hout, h]) (by rw [State.pinStep_rx, h]; rfl)

theorem takenAtClose_microStep (s : State) (u : MicroOp) : TakenAtClose s (s.microStep u) := by
  rcases Bool.eq_false_or_eq_true u.isPin with hu | hu
  · rw [microStep_pin s hu]
    exact takenAtClose_pinStep ..
  · obtain rfl := eq_dioRd_of_not_isPin hu
    exact takenAtClose_of_eq rfl rfl

/-- An instruction is a byte on the wire, a micro-op, or a command, whose acceptance is inside the block. -/
theorem instr_cases (i : Instr) (s : State) :
    (codeSpace i = .wireFirst ∨ codeSpace i = .wireLater) ∨ (∃ u : MicroOp, i = u.toInstr) ∨
    ∃ t, exec i s = .next t ∧ t.obs = s.obs ∧ t.rx = s.rx := by
  cases i
  case cmdData | addr | ctl => exact .inl (.inl rfl)
  case segdata => exact .inl (.inr rfl)
  case clkLo => exact .inr (.inl ⟨.clkLo, rfl⟩)
  case clkHi => exact .inr (.inl ⟨.clkHi, rfl⟩)
  case dioLo => exact .inr (.inl ⟨.dioLo, rfl⟩)
  case dioHi => exact .inr (.inl ⟨.dioHi, rfl⟩)
  case clkOut => exact .inr (.inl ⟨.clkOut, rfl⟩)
  case dioOut => exact .inr (.inl ⟨.dioOut, rfl⟩)
  case dioIn => exact .inr (.inl ⟨.dioIn, rfl⟩)
  case dioRd => exact .inr (.inl ⟨.dioRd, rfl⟩)
  all_goals exact .inr (.inr ⟨_, rfl, rfl, rfl⟩)

/-- What an instruction does outside the block: what its event closes is taken, or it is a byte the receiver takes. -/
theorem exec_outside {i : Instr} {s t : State} (h : exec i s = .next t) :
    TakenAtClose s t ∨
    ((codeSpace i = .wireFirst ∨ codeSpace i = .wireLater) ∧ t.obs = s.obs ∧ t.rx = s.rx.take i) := by
  rcases instr_cases i s with hi | ⟨u, rfl⟩ | ⟨t', he, hobs, hrx⟩
  · obtain rfl : s.setRx (s.rx.take i) = t := by simpa [exec_wire hi] using h
    exact .inr ⟨hi, rfl, rfl⟩
  · obtain rfl : s.microStep u = t := by simpa [exec_microOp_eq] using h
    exact .inl (takenAtClose_microStep s u)
  · obtain rfl : t' = t := by simpa [he] using h
    exact .inl (takenAtClose_of_eq hobs hrx)

/-- What a step does outside the block: what its event closes is taken, or the receiver takes what is placed before
it. -/
theorem step_outside {s t : State} (h : step s = .next t) :
    TakenAtClose s t ∨ (t.obs = s.obs ∧ ReceiverTakes s.rx t.rx) := by
  rcases step_cases h with
    ⟨-, rfl⟩ | ⟨-, ⟨-, -, -, rfl⟩ | ⟨u, -, -, -, he⟩ | ⟨-, -, -, rfl⟩ | ⟨-, -, he⟩ | ⟨-, rx, hrx, rfl⟩⟩
  · exact .inl (takenAtClose_of_eq rfl rfl)
  · exact .inl (takenAtClose_of_eq rfl rfl)
  · obtain rfl : s.microStep u = t := by simpa [exec_microOp_eq] using he
    exact .inl (takenAtClose_microStep s u)
  · exact .inl (takenAtClose_of_eq rfl rfl)
  · obtain rfl : s.acceptWord s.now.cmdWord = t := by simpa [exec_decodeCommand_eq] using he
    exact .inl (takenAtClose_of_eq rfl rfl)
  · exact .inr ⟨rfl, hrx⟩

/-- Where the block has no step, only the receiver moves. -/
theorem step_of_blockMove_none {s : State} (hrst : s.now.rst = false)
    (hm : blockMove s.params s.regs s.now = none) :
    ∃ rx, ReceiverTakes s.rx rx ∧ step s = .next (s.setRx rx) := by
  obtain ⟨rx, hrx, he⟩ := receiver_step s
  exact ⟨rx, hrx, by simpa [step, nextMove, hrst, hm] using he⟩

/-- Settles O13: only the receiver moves (`step_of_blockMove_none`). -/
theorem environmentWritesNoRegister : Obligations.EnvironmentWritesNoRegister := by
  intro s t hrst hm h
  obtain ⟨rx, -, he⟩ := step_of_blockMove_none hrst hm
  obtain rfl : s.setRx rx = t := by simpa [he] using h
  exact ⟨rfl, rfl, rfl, rfl⟩

theorem blockStep_params {s t : State} (h : BlockStep s t) : t.params = s.params := by
  cases h with
  | microOp u => exact microStep_params s u
  | delayEnd => rfl
  | complete => rfl
  | accept => rfl
  | none => rfl

/-- Settles O32: a reset and every step without one keep the parameters. -/
theorem parametersNeverWritten : Obligations.ParametersNeverWritten := by
  intro s t h
  rcases step_cases h with ⟨-, rfl⟩ | ⟨hrst, -⟩
  · rfl
  · exact blockStep_params (blockStep_of_step hrst h)

/-! ### The observer's counts (R64) -/

theorem microStep_obs (s : State) (u : MicroOp) :
    (s.microStep u).obs = s.obs ∨ ∃ before after, (s.microStep u).obs = s.obs.see before after := by
  rcases Bool.eq_false_or_eq_true u.isPin with hu | hu
  · exact .inr ⟨_, _, by rw [microStep_pin s hu, State.pinStep_obs]⟩
  · obtain rfl := eq_dioRd_of_not_isPin hu
    exact .inl rfl

theorem blockStep_obs {s t : State} (h : BlockStep s t) :
    t.obs = s.obs ∨ ∃ before after, t.obs = s.obs.see before after := by
  cases h with
  | microOp u => exact microStep_obs s u
  | delayEnd => exact .inl rfl
  | complete => exact .inl rfl
  | accept => exact .inl rfl
  | none => exact .inl rfl

@[simp] theorem risingEdge_k (o : Observer) (d : Bool) : (o.risingEdge d).k = o.k + 1 := by
  unfold Observer.risingEdge
  split
  · rfl
  · split <;> rfl

@[simp] theorem risingEdge_inTxn (o : Observer) (d : Bool) : (o.risingEdge d).inTxn = o.inTxn := by
  unfold Observer.risingEdge
  split
  · rfl
  · split <;> rfl

/-- The three cases of a rising edge: the ninth adds nothing, the eighth finishes the byte, the others add a bit. -/
theorem observerAligned_risingEdge {o : Observer} (d : Bool) (h : ObserverAligned o) :
    ObserverAligned (o.risingEdge d) := by
  intro ht
  rw [risingEdge_inTxn] at ht
  obtain ⟨hbits, hbytes⟩ := h ht
  unfold Observer.risingEdge
  by_cases hk : o.k % 9 = 8
  · rw [if_pos hk] at hbits
    rw [if_pos (by omega)]
    exact ⟨hbits.trans (by simp only; rw [if_neg (by omega)]; omega), hbytes.trans (by simp only; omega)⟩
  · rw [if_neg hk] at hbits
    rw [if_neg (by omega)]
    split
    · rename_i hlen
      simp only [List.length_append, List.length_cons, List.length_nil] at hlen ⊢
      exact ⟨by rw [if_pos (by omega)], by omega⟩
    · rename_i hlen
      simp only [List.length_append, List.length_cons, List.length_nil] at hlen ⊢
      exact ⟨by rw [if_neg (by omega)]; omega, by omega⟩

theorem observerAligned_react {o : Observer} (p q : Lines) (h : ObserverAligned o) : ObserverAligned (o.react p q) := by
  rcases react_cases o p q with ⟨-, e⟩ | ⟨-, e⟩ | ⟨-, -, -, e⟩ | e <;> rw [e]
  · exact fun _ => ⟨by simp, by simp⟩
  · exact fun htxn => by cases htxn
  · exact observerAligned_risingEdge q.dio h
  · exact h

theorem observerAligned_see {o : Observer} (before after : Lines) (h : ObserverAligned o) :
    ObserverAligned (o.see before after) := observerAligned_react _ _ h

/-- Settles O38: a step leaves the observer, or the observer sees one event, which keeps the counts in step. -/
theorem observerStaysAligned : Obligations.ObserverStaysAligned := by
  intro s t h hstep
  rcases step_cases hstep with ⟨-, rfl⟩ | ⟨hrst, -⟩
  · exact h
  · rcases blockStep_obs (blockStep_of_step hrst hstep) with e | ⟨before, after, e⟩ <;> rw [e]
    · exact h
    · exact observerAligned_see before after h

/-! ### The receiver's form (R65) -/

theorem receiverTakes_ok {rx rx' : Receiver} (h : ReceiverTakes rx rx') (hok : ReceiverOk rx) : ReceiverOk rx' := by
  rcases h with rfl | ⟨-, rfl⟩ | ⟨v, vs, i, -, -, hi, rfl⟩
  · exact hok
  · exact refuse_ok hok
  · exact take_ok hi hok

/-- Settles O39: by the two things that can happen to the receiver in a step (`step_outside`). -/
theorem receiverMemoryStaysCanonical : Obligations.ReceiverMemoryStaysCanonical := by
  constructor
  · intro s t hok hstep
    rcases step_outside hstep with htaken | ⟨-, hrx⟩
    · cases htaken with
      | stays _ e => rwa [e]
      | closes bs _ e => rw [e]; exact takeTxn_ok bs hok
    · exact receiverTakes_ok hrx hok
  · intro s t htodo hstep
    rcases step_outside hstep with htaken | ⟨-, hrx⟩
    · cases htaken with
      | stays _ e => rwa [e]
      | closes bs _ e => rw [e]; exact takeTxn_todo bs htodo
    · rwa [receiver_idle hrx htodo]

/-! ### The four wire bytes at the receiver (R86 to R89) -/

theorem pop_last {rx : Receiver} {v : Byte} (h : rx.todo = [v]) (p : Option Nat) :
    rx.pop p = { rx with todo := [], ptr := none } := by
  simp [Receiver.pop, h]

theorem pop_more {rx : Receiver} {v w : Byte} {vs : List Byte} (h : rx.todo = v :: w :: vs) (p : Option Nat) :
    rx.pop p = { rx with todo := w :: vs, ptr := p } := by
  simp [Receiver.pop, h]

theorem takeCmdData_alone {rx : Receiver} {v : Byte} (h : rx.todo = [v]) :
    rx.takeCmdData = { rx with mode := some 0x40#8, todo := [], ptr := none } := by
  rw [Receiver.takeCmdData, if_pos (by rw [h]; rfl)]
  exact pop_last (rx := { rx with mode := some 0x40#8 }) h none

theorem takeCmdData_refuses {rx : Receiver} (h : rx.todo.tail ≠ []) : rx.takeCmdData = rx.refuse := if_neg h

/-- Settles O23: `takeCmdData` looks for a further byte. -/
theorem dataCommandTaken : Obligations.DataCommandTaken := by
  refine ⟨fun s v h => ?_, fun s v w vs h => ?_⟩
  · rw [exec_wire (i := .cmdData) (.inl rfl), Receiver.take, takeCmdData_alone h]
    rfl
  · rw [exec_wire (i := .cmdData) (.inl rfl), Receiver.take, takeCmdData_refuses (by simp [h])]
    rfl

theorem takeAddr_below {rx : Receiver} {p : Nat} {m : Byte} (hm : rx.mode = some m) (hp : p < 4) :
    rx.takeAddr p = rx.pop (some p) := by
  rw [Receiver.takeAddr, if_neg (by simp [hm, Config.positionMax, hp])]

theorem takeAddr_refuses {rx : Receiver} {p : Nat} (h : rx.mode = none ∨ 4 ≤ p) : rx.takeAddr p = rx.refuse := if_pos h

/-- Settles O24: with `MODE` written and a position below 4 the byte is popped, with or without a further one. -/
theorem addressTaken : Obligations.AddressTaken := by
  refine ⟨fun s p v w m vs h hm hp => ?_, fun s p v m h hm hp => ?_, fun s p h => ?_⟩
  · rw [exec_wire (i := .addr p) (.inl rfl), Receiver.take, takeAddr_below hm hp, pop_more h]
    rfl
  · rw [exec_wire (i := .addr p) (.inl rfl), Receiver.take, takeAddr_below hm hp, pop_last h]
    rfl
  · rw [exec_wire (i := .addr p) (.inl rfl), Receiver.take, takeAddr_refuses h]
    rfl

/-- Bits 4 to 6 of a control byte, as a mask of the byte (R65, R88). -/
theorem ctl_and_mask (x : BitVec 7) :
    (0x80#8 ||| x.setWidth 8) &&& 0x70#8 = 0#8 ↔
      x.getLsbD 4 = false ∧ x.getLsbD 5 = false ∧ x.getLsbD 6 = false := by
  revert x
  decide

theorem takeCtl_alone {rx : Receiver} {v b : Byte} (h : rx.todo = [v]) (hb : b &&& 0x70#8 = 0#8) :
    rx.takeCtl b = { rx with ctrl := some b, todo := [], ptr := none } := by
  rw [Receiver.takeCtl, if_pos ⟨hb, by rw [h]; rfl⟩]
  exact pop_last (rx := { rx with ctrl := some b }) h none

theorem takeCtl_refuses {rx : Receiver} {b : Byte} (h : b &&& 0x70#8 ≠ 0#8 ∨ rx.todo.tail ≠ []) :
    rx.takeCtl b = rx.refuse := if_neg (by tauto)

/-- Settles O25: `takeCtl` tests the mask 0x70, which is bits 4 to 6 of the operand (`ctl_and_mask`). -/
theorem controlByteTaken : Obligations.ControlByteTaken := by
  refine ⟨fun s x v h h4 h5 h6 => ?_, fun s x h => ?_, fun s x v w vs h => ?_⟩
  · rw [exec_wire (i := .ctl x) (.inl rfl), Receiver.take, takeCtl_alone h ((ctl_and_mask x).mpr ⟨h4, h5, h6⟩)]
    rfl
  · have hmask : (0x80#8 ||| x.setWidth 8) &&& 0x70#8 ≠ 0#8 := by
      rw [Ne, ctl_and_mask]
      rintro ⟨h4, h5, h6⟩
      rw [h4, h5, h6] at h
      simp at h
    rw [exec_wire (i := .ctl x) (.inl rfl), Receiver.take, takeCtl_refuses (.inl hmask)]
    rfl
  · rw [exec_wire (i := .ctl x) (.inl rfl), Receiver.take, takeCtl_refuses (.inr (by simp [h]))]
    rfl

theorem takeSegdata_below {rx : Receiver} {p : Nat} (hptr : rx.ptr = some p) (hp : p < 4) (x : Byte) :
    rx.takeSegdata x = Receiver.pop { rx with disp := memWrite rx.disp p x } (some (p + 1)) := by
  have hmax : ¬Config.positionMax ≤ p := Nat.not_le.mpr hp
  simp only [Receiver.takeSegdata, hptr, if_neg hmax]

theorem takeSegdata_refuses {rx : Receiver} (h : rx.ptr = none ∨ ∃ p, rx.ptr = some p ∧ 4 ≤ p) (x : Byte) :
    rx.takeSegdata x = rx.refuse := by
  rcases h with h | ⟨p, h, hp⟩
  · simp only [Receiver.takeSegdata, h]
  · have hmax : Config.positionMax ≤ p := hp
    simp only [Receiver.takeSegdata, h, if_pos hmax]

/-- Settles O26: one write to the memory (`memRead_memWrite_same`, `memRead_memWrite_other`) and one byte popped. -/
theorem segmentDataTaken : Obligations.SegmentDataTaken := by
  refine ⟨fun s x v p vs h hptr hp => ⟨_, exec_wire (i := .segdata x) (.inr rfl) s, ?_⟩, fun s x h => ?_⟩
  · obtain ⟨hdisp, hmode, hctrl, hrefused, hanswers⟩ :=
      pop_fields { s.rx with disp := memWrite s.rx.disp p x } (some (p + 1))
    have hqueue := pop_queue (rx := { s.rx with disp := memWrite s.rx.disp p x }) (p := some (p + 1)) h
    rw [State.setRx_rx, Receiver.take, takeSegdata_below hptr hp, hdisp]
    refine ⟨memRead_memWrite_same _ p x, fun q hq => memRead_memWrite_other _ x hq, ?_, ?_, hmode, hctrl, hrefused,
      hanswers, rfl, rfl, rfl, rfl, rfl, rfl⟩
    · rcases hqueue with ⟨rfl, htodo, -⟩ | ⟨-, htodo, -⟩ <;> exact htodo
    · rcases hqueue with ⟨rfl, -, hq⟩ | ⟨hne, -, hq⟩
      · exact hq
      · rw [hq, if_neg hne]
  · rw [exec_wire (i := .segdata x) (.inr rfl), Receiver.take, takeSegdata_refuses h]
    rfl

/-! ### Who stores to the display memory (R50, R65) -/

@[simp] theorem refuse_disp (rx : Receiver) : rx.refuse.disp = rx.disp := rfl
@[simp] theorem refuse_todo (rx : Receiver) : rx.refuse.todo = [] := rfl
@[simp] theorem pop_disp (rx : Receiver) (p : Option Nat) : (rx.pop p).disp = rx.disp := (pop_fields rx p).1

@[simp] theorem pop_todo (rx : Receiver) (p : Option Nat) : (rx.pop p).todo = rx.todo.tail := by
  rcases h : rx.todo with _ | ⟨v, _ | ⟨w, vs⟩⟩ <;> simp [Receiver.pop, h]

theorem takeCmdData_disp (rx : Receiver) : rx.takeCmdData.disp = rx.disp := by
  unfold Receiver.takeCmdData
  split <;> simp

theorem takeAddr_disp (rx : Receiver) (p : Nat) : (rx.takeAddr p).disp = rx.disp := by
  unfold Receiver.takeAddr
  split <;> simp

theorem takeCtl_disp (rx : Receiver) (b : Byte) : (rx.takeCtl b).disp = rx.disp := by
  unfold Receiver.takeCtl
  split <;> simp

/-- No byte of its transaction is left after a data command. -/
theorem takeCmdData_todo (rx : Receiver) : rx.takeCmdData.todo = [] := by
  unfold Receiver.takeCmdData
  split
  · rwa [pop_todo]
  · rfl

/-- No byte of its transaction is left after a control byte. -/
theorem takeCtl_todo (rx : Receiver) (b : Byte) : (rx.takeCtl b).todo = [] := by
  unfold Receiver.takeCtl
  split
  · rename_i h
    rw [pop_todo]
    exact h.2
  · rfl

/-- After an address byte either no byte is left, or the rest is addressed from its position. -/
theorem takeAddr_queue {rx : Receiver} {v : Byte} {vs : List Byte} (h : rx.todo = v :: vs) (p : Nat) :
    (rx.takeAddr p).todo = [] ∨ ((rx.takeAddr p).todo = vs ∧ (rx.takeAddr p).ptr = some p) := by
  unfold Receiver.takeAddr
  split
  · exact .inl rfl
  · rcases pop_queue (p := some p) h with ⟨-, ht, -⟩ | ⟨-, ht, hptr⟩
    · exact .inl ht
    · exact .inr ⟨ht, hptr⟩

/-- Of the instructions only segment data stores. -/
theorem take_disp {i : Instr} (h : ∀ v, i ≠ .segdata v) (rx : Receiver) : (rx.take i).disp = rx.disp := by
  cases i
  case segdata v => exact absurd rfl (h v)
  case cmdData => exact takeCmdData_disp rx
  case addr p => exact takeAddr_disp rx p.toNat
  case ctl v => exact takeCtl_disp rx _
  all_goals rfl

/-- Segment data either stores at the position the receiver holds, below 4, and goes one on, or is refused. -/
theorem takeSegdata_cases (rx : Receiver) (v : Byte) :
    rx.takeSegdata v = rx.refuse ∨ ∃ p, rx.ptr = some p ∧ p < 4 ∧
      rx.takeSegdata v = Receiver.pop { rx with disp := memWrite rx.disp p v } (some (p + 1)) := by
  rcases hptr : rx.ptr with _ | p
  · exact .inl (takeSegdata_refuses (.inl hptr) v)
  · rcases Nat.lt_or_ge p 4 with hp | hp
    · exact .inr ⟨p, rfl, hp, takeSegdata_below hptr hp v⟩
    · exact .inl (takeSegdata_refuses (.inr ⟨p, hptr, hp⟩) v)

theorem takeSegdata_other {rx : Receiver} {q : Nat} (h : rx.ptr ≠ some q) (v : Byte) :
    memRead (rx.takeSegdata v).disp q = memRead rx.disp q := by
  rcases takeSegdata_cases rx v with e | ⟨p, hptr, -, e⟩ <;> rw [e]
  · rfl
  · rw [pop_disp]
    exact memRead_memWrite_other _ v fun hq => h (hq ▸ hptr)

theorem takeBytes_of_todo_nil (n : Nat) {rx : Receiver} (h : rx.todo = []) : Receiver.takeBytes n rx = rx := by
  induction n with
  | zero => rfl
  | succ n ih =>
    have e : rx.takeByte = rx := by simp [Receiver.takeByte, h]
    rw [Receiver.takeBytes, e, ih]

/-- A later byte of a transaction is segment data (R65, R89). -/
theorem takeByte_later {rx : Receiver} {p : Nat} {v : Byte} {vs : List Byte} (hptr : rx.ptr = some p)
    (h : rx.todo = v :: vs) : rx.takeByte = rx.takeSegdata v := by
  simp only [Receiver.takeByte, h, hptr, Option.isNone_some]
  rfl

/-- The bytes of `vs` addressed from position `p` on: position `q` reads as in `m`, or as the byte sent to it. -/
def StoredFrom (p : Nat) (vs : List Byte) (m m' : Memory) (q : Nat) : Prop :=
  memRead m' q = memRead m q ∨ (p ≤ q ∧ q < 4 ∧ vs[q - p]? = memRead m' q)

/-- One byte more in front: it goes to position `p`, the rest from `p + 1` on. -/
theorem storedFrom_cons {p q : Nat} {v : Byte} {vs : List Byte} {m m' : Memory} (hp : p < 4)
    (h : StoredFrom (p + 1) vs (memWrite m p v) m' q) : StoredFrom p (v :: vs) m m' q := by
  rcases h with h | ⟨hpq, hq, h⟩
  · rcases eq_or_ne q p with rfl | hne
    · rw [memRead_memWrite_same] at h
      exact .inr ⟨le_rfl, hp, by simp [h]⟩
    · exact .inl (h.trans (memRead_memWrite_other m v hne))
  · refine .inr ⟨by omega, hq, ?_⟩
    rw [show q - p = q - (p + 1) + 1 by omega, List.getElem?_cons_succ, h]

/-- Further bytes after an address byte are stored each at its position, or the receiver refuses the rest (R65). -/
theorem storedFrom_takeBytes (n : Nat) {rx : Receiver} {p : Nat} (q : Nat) (hptr : rx.ptr = some p) :
    StoredFrom p rx.todo rx.disp (Receiver.takeBytes n rx).disp q := by
  induction n generalizing rx p with
  | zero => exact .inl rfl
  | succ n ih =>
    rcases htodo : rx.todo with _ | ⟨v, vs⟩
    · rw [takeBytes_of_todo_nil _ htodo]
      exact .inl rfl
    · rw [Receiver.takeBytes, takeByte_later hptr htodo]
      rcases takeSegdata_cases rx v with e | ⟨p', hptr', hp, e⟩ <;> rw [e]
      · rw [takeBytes_of_todo_nil _ rfl]
        exact .inl rfl
      · obtain rfl : p' = p := Option.some.inj (hptr'.symm.trans hptr)
        refine storedFrom_cons hp ?_
        have hqueue := pop_queue (rx := { rx with disp := memWrite rx.disp p' v }) (p := some (p' + 1)) htodo
        rcases hqueue with ⟨-, ht, -⟩ | ⟨-, ht, hptr1⟩
        · rw [takeBytes_of_todo_nil _ ht, pop_disp]
          exact .inl rfl
        · have hih := ih hptr1
          rwa [ht, pop_disp] at hih

/-- The first byte of a transaction stores nothing, and after it no byte is left to take but where it is an address. -/
theorem takeByte_first {rx : Receiver} {v : Byte} {vs : List Byte} (hptr : rx.ptr = none) (h : rx.todo = v :: vs) :
    rx.takeByte.disp = rx.disp ∧
    (rx.takeByte.todo = [] ∨ ∃ p, decodeWireFirst v = .instr (.addr p) ∧ rx.takeByte.todo = vs ∧
      rx.takeByte.ptr = some p.toNat) := by
  have e : rx.takeByte = match decodeWireFirst v with
      | .instr i => rx.take i
      | .reject _ => rx.refuse := by
    simp only [Receiver.takeByte, h, hptr, Option.isNone_none]
    rfl
  rcases decodeWireFirst_cases v with ⟨-, hd⟩ | ⟨x, hd⟩ | ⟨p, hd⟩ | ⟨r, hd⟩ <;> rw [e, hd]
  · exact ⟨takeCmdData_disp rx, .inl (takeCmdData_todo rx)⟩
  · exact ⟨takeCtl_disp rx _, .inl (takeCtl_todo rx _)⟩
  · exact ⟨takeAddr_disp rx p.toNat, (takeAddr_queue h p.toNat).imp id fun hq => ⟨p, rfl, hq⟩⟩
  · exact ⟨rfl, .inl rfl⟩

/-- What a transaction changes in the display memory: positions its address byte addresses, each to the byte sent
there. -/
theorem takeTxn_stores (rx : Receiver) (bs : List Byte) (q : Nat) :
    memRead (rx.takeTxn bs).disp q = memRead rx.disp q ∨
    ∃ (b0 : Byte) (vs : List Byte) (p : BitVec 6), bs = b0 :: vs ∧ decodeWireFirst b0 = .instr (.addr p) ∧
      p.toNat ≤ q ∧ q < 4 ∧ vs[q - p.toNat]? = memRead (rx.takeTxn bs).disp q := by
  rcases bs with _ | ⟨b0, vs⟩
  · refine .inl ?_
    unfold Receiver.takeTxn
    split <;> rfl
  · rcases hr : rx.refused with _ | _
    · have e : rx.takeTxn (b0 :: vs) =
          Receiver.takeBytes vs.length (Receiver.takeByte { rx with todo := b0 :: vs, ptr := none }) := by
        simp [Receiver.takeTxn, hr, Receiver.takeBytes]
      obtain ⟨hdisp, hqueue⟩ := takeByte_first (rx := { rx with todo := b0 :: vs, ptr := none }) rfl rfl
      rw [e]
      rcases hqueue with ht | ⟨p, hd, ht, hptr⟩
      · rw [takeBytes_of_todo_nil _ ht, hdisp]
        exact .inl rfl
      · have hstored := storedFrom_takeBytes vs.length q hptr
        rw [ht, hdisp] at hstored
        exact hstored.imp id fun hq => ⟨b0, vs, p, rfl, hd, hq⟩
    · exact .inl (by simp [Receiver.takeTxn, hr])

theorem decode_wireFirst_toNat (b : Byte) : decode .wireFirst b.toNat = decodeWireFirst b := by
  have hlt : b.toNat < 2 ^ CodeSpace.wireFirst.width := b.isLt
  rw [decode, if_pos hlt]
  simp only [BitVec.ofNat_toNat, BitVec.setWidth_eq, decodeWire, if_true]

/-- Settles O27: by what an instruction does outside the block (`exec_outside`); a byte placed is `take_disp` and
`takeSegdata_other`, a transaction is `takeTxn_stores`. -/
theorem onlySegmentDataStores : Obligations.OnlySegmentDataStores := by
  intro i s t h
  refine ⟨fun hi hout q => ?_, fun v hi q hq => ?_, fun bs hout q hq => ?_⟩
  · rcases exec_outside h with htaken | ⟨-, -, hrx⟩
    · cases htaken with
      | stays _ hrx => rw [hrx]
      | closes bs hout' _ => simp [hout'] at hout
    · rw [hrx, take_disp hi]
  · subst hi
    obtain rfl : s.setRx (s.rx.takeSegdata v) = t := by simpa [exec_wire, codeSpace, Receiver.take] using h
    exact takeSegdata_other hq v
  · rcases exec_outside h with htaken | ⟨-, hobs, -⟩
    · cases htaken with
      | stays hout' _ => simp [hout'] at hout
      | closes bs' hout' hrx =>
        obtain rfl : bs' = bs := by simpa [hout'] using hout
        rw [hrx] at hq ⊢
        obtain ⟨b0, vs, p, hbs, hd, hstored⟩ := (takeTxn_stores s.rx bs' q).resolve_left hq
        exact ⟨b0, vs, p, hbs, (decode_wireFirst_toNat b0).trans hd, hstored⟩
    · simp [hobs] at hout

/-! ### A transaction is taken at its stop condition (R57, R211) -/

/-- Bit 7 of every control byte is 1 (R88, R150). -/
theorem ctlByte_getLsbD_seven (en : Bool) (brt : Byte) : (ctlByte en brt).getLsbD 7 = true := by
  cases en <;> simp [ctlByte]

/-- DATA rising under a high CLOCK closes the open transaction (R64). -/
theorem closes_stop {o : Observer} (htxn : o.inTxn = true) (hprev : o.prev = some { clk := true, dio := false })
    (before : Lines) : o.closes before { clk := true, dio := true } = [o.bytes] := by
  simp [Observer.closes, Observer.start, isStop, htxn, hprev]

/-- The `DIO_HI` of a stop condition: the receiver takes what was sent (R131, R211). -/
theorem dioHi_takes {s : State} (htxn : s.obs.inTxn = true) (hprev : s.obs.prev = some { clk := true, dio := false })
    (hclkOe : s.regs.clkOe = true) (hclkO : s.regs.clkO = true) (hdioOe : s.regs.dioOe = true) :
    ∃ t, exec .dioHi s = .next t ∧ t.rx = s.rx.takeTxn s.obs.bytes := by
  refine ⟨_, rfl, ?_⟩
  rw [State.pinStep_rx, lines_driven s (r := { s.regs with dioO := true }) hclkOe hdioOe]
  simp only [hclkO]
  rw [closes_stop htxn hprev]
  rfl

/-- Settles O58: the closing micro-op is `dioHi_takes`, the three transactions are the laws of `takeTxn`. -/
theorem transactionTakenAtStop : Obligations.TransactionTakenAtStop := by
  constructor
  · rintro s bs htxn rfl hprev hclkOe hclkO hdioOe hrefused htodo
    obtain ⟨t, he, hrx⟩ := dioHi_takes htxn hprev hclkOe hclkO hdioOe
    refine ⟨t, he, ?_⟩
    rw [hrx]
    refine ⟨takeTxn_todo _ htodo, fun hbs => ?_, fun hbs => ?_, fun p v hbs hp hmode => ?_, fun en brt hbs hmask => ?_⟩
    · rw [hbs]
      simp [Receiver.takeTxn, hrefused, Receiver.refuse]
    · rw [hbs]
      exact (takeTxn_cmdData hrefused).trans (by rw [← htodo]; rfl)
    · obtain ⟨m, hm⟩ := Option.ne_none_iff_exists'.mp hmode
      rw [hbs, takeTxn_addr hrefused hm hp v]
      exact ⟨by simp only [htodo], memRead_memWrite_same _ _ v⟩
    · rw [hbs]
      exact (takeTxn_ctl hrefused (ctlByte_getLsbD_seven en brt) hmask).trans (by simp only [htodo])
  · intro u s t h hout
    obtain rfl : s.microStep u = t := by simpa [exec_microOp_eq] using h
    cases takenAtClose_microStep s u with
    | stays _ hrx => exact hrx
    | closes bs hout' _ => simp [hout'] at hout

/-! ### The default table (R52) -/

/-- Settles O45: the sixteen entries are read off the table, and bit 7 is looked up in each. -/
theorem defaultFont : Obligations.DefaultFont := ⟨rfl, by decide⟩

end Sys2Proof.Machine
end

section
/-! SUPPORT. The family 20_memory.md, runs: a command in progress as a run of whole micro-ops, each with its delay
(R119, R120, R125). -/

namespace Sys2Proof.Machine

/-! ### The block's steps, each from its condition (R120, R121) -/

theorem step_of_blockMove {s : State} {m : Move} (hrst : s.now.rst = false)
    (hm : blockMove s.params s.regs s.now = some m) : step s = perform m s := by
  simp [step, nextMove, hrst, hm]

theorem step_accept {s : State} (hrst : s.now.rst = false) (hb : s.regs.busy = false) (hv : s.now.cmdValid = true) :
    step s = .next (s.acceptWord s.now.cmdWord) := by
  have hm : blockMove s.params s.regs s.now = some (.run (decodeCommand s.now.cmdWord)) := by simp [blockMove, hb, hv]
  exact (step_of_blockMove hrst hm).trans (exec_decodeCommand_eq ..)

theorem step_microOp {s : State} {u : MicroOp} (hrst : s.now.rst = false) (hb : s.regs.busy = true)
    (hd : s.regs.dly = false) (hu : (expansion s.params s.regs)[s.regs.upc.toNat]? = some u) :
    step s = .next (s.microStep u) := by
  have hm : blockMove s.params s.regs s.now = some (.run u.toInstr) := by simp [blockMove, hb, hd, hu]
  exact (step_of_blockMove hrst hm).trans (exec_microOp_eq u s)

theorem step_delayEnd {s : State} (hrst : s.now.rst = false) (hb : s.regs.busy = true) (hd : s.regs.dly = true)
    (hdone : s.now.dlyDone = true) : step s = .next s.delayEnd :=
  step_of_blockMove (m := .delayEnd) hrst (by simp [blockMove, hb, hd, hdone])

theorem step_complete {s : State} (hrst : s.now.rst = false) (hb : s.regs.busy = true) (hd : s.regs.dly = false)
    (hlen : s.regs.upc.toNat = (expansion s.params s.regs).length) : step s = .next s.complete :=
  step_of_blockMove (m := .complete) hrst (by simp [blockMove, hb, hd, hlen])

/-- While the timer does not answer only the receiver moves (R192). -/
theorem step_waiting {s : State} (hrst : s.now.rst = false) (hb : s.regs.busy = true) (hd : s.regs.dly = true)
    (hdone : s.now.dlyDone = false) : ∃ rx, ReceiverTakes s.rx rx ∧ step s = .next (s.setRx rx) :=
  step_of_blockMove_none hrst (by simp [blockMove, hb, hd, hdone])

/-! ### The edges of a micro-op list, one micro-op at a time (R125) -/

/-- Nothing to run takes no edge. -/
theorem edgesFor_nil (l : List Inputs) : edgesFor false [] l = some 0 := by cases l <;> rfl

/-- The edges of a delay come first, then those of the list. -/
theorem edgesFor_delay {us : List MicroOp} {l : List Inputs} {n : Nat} (h : edgesFor true us l = some n) :
    ∃ m k, n = m + k ∧ edgesFor true [] l = some m ∧ edgesFor false us (l.drop m) = some k := by
  induction l generalizing n with
  | nil => simp [edgesFor] at h
  | cons i l ih =>
    rcases hrst : i.rst with _ | _
    · simp only [edgesFor, hrst, Bool.false_eq_true, if_false, Option.map_eq_some_iff] at h ⊢
      obtain ⟨n', hn', rfl⟩ := h
      rcases hdone : i.dlyDone with _ | _
      · rw [hdone] at hn'
        obtain ⟨m, k, rfl, hm, hk⟩ := ih hn'
        exact ⟨m + 1, k, by omega, ⟨m, hm, rfl⟩, hk⟩
      · rw [hdone] at hn'
        exact ⟨1, n', by omega, ⟨0, edgesFor_nil l, rfl⟩, hn'⟩
    · simp [edgesFor, hrst] at h

/-- The edges of the first micro-op and its delay come first, then those of the rest. -/
theorem edgesFor_cons {u : MicroOp} {us : List MicroOp} {l : List Inputs} {n : Nat}
    (h : edgesFor false (u :: us) l = some n) :
    ∃ m k, n = m + k ∧ edgesFor false [u] l = some m ∧ edgesFor false us (l.drop m) = some k := by
  rcases l with _ | ⟨i, l⟩
  · simp [edgesFor] at h
  · rcases hrst : i.rst with _ | _
    · simp only [edgesFor, hrst, Bool.false_eq_true, if_false, Option.map_eq_some_iff] at h ⊢
      obtain ⟨n', hn', rfl⟩ := h
      rcases hu : u.isPin with _ | _ <;> rw [hu] at hn'
      · exact ⟨1, n', by omega, ⟨0, edgesFor_nil l, rfl⟩, hn'⟩
      · obtain ⟨m, k, rfl, hm, hk⟩ := edgesFor_delay hn'
        exact ⟨m + 1, k, by omega, ⟨m, hm, rfl⟩, hk⟩
    · simp [edgesFor, hrst] at h

/-! ### A command in progress runs micro-op by micro-op (R120) -/

/-- A command is in progress, no delay is running, and `us` is what is left of its expansion (R120). -/
structure Pending (us : List MicroOp) (s : State) : Prop where
  busy : s.regs.busy = true
  dly : s.regs.dly = false
  upc : s.regs.upc.toNat ≤ (expansion s.params s.regs).length
  rest : (expansion s.params s.regs).drop s.regs.upc.toNat = us

/-- From `s`, in which a delay is running, to `t`, in which it has ended, on `m` edges: meanwhile only the receiver
moves, if a byte is placed before it. -/
structure DelayDone (m : Nat) (s t : State) : Prop where
  regs : t.regs = { s.regs with dly := false }
  params : t.params = s.params
  trace : t.trace = s.trace ++ [.wait]
  obs : t.obs = s.obs
  rx : Relation.ReflTransGen ReceiverTakes s.rx t.rx
  script : t.script = s.script.drop m

/-- From `s` to `t` by micro-op `u` and, after a pin micro-op, its delay (R119, R120 S1 and S2). -/
structure MicroOpDone (u : MicroOp) (s t : State) : Prop where
  regs : t.regs = { (s.microStep u).regs with dly := false }
  params : t.params = s.params
  trace : t.trace = (s.microStep u).trace ++ if u.isPin then [.wait] else []
  obs : t.obs = (s.microStep u).obs
  rx : Relation.ReflTransGen ReceiverTakes (s.microStep u).rx t.rx
  edges : ∃ m, edgesFor false [u] s.script = some m ∧ t.script = s.script.drop m

/-- From `s` to `t` by the micro-ops of a list, each with its delay. -/
inductive MicroRun : List MicroOp → State → State → Prop
  | nil (s : State) : MicroRun [] s s
  | cons {u : MicroOp} {us : List MicroOp} {s s' t : State} (first : MicroOpDone u s s') (rest : MicroRun us s' t) :
      MicroRun (u :: us) s t

theorem Pending.atUpc {u : MicroOp} {us : List MicroOp} {s : State} (h : Pending (u :: us) s) :
    (expansion s.params s.regs)[s.regs.upc.toNat]? = some u := by
  rw [← List.head?_drop, h.rest, List.head?_cons]

/-- With nothing left the command is about to complete. -/
theorem Pending.atEnd {s : State} (h : Pending [] s) : s.regs.upc.toNat = (expansion s.params s.regs).length :=
  le_antisymm h.upc (List.drop_eq_nil_iff.mp h.rest)

/-- After its first micro-op the rest of the list is left. -/
theorem Pending.tail {u : MicroOp} {us : List MicroOp} {s t : State} (h : Pending (u :: us) s)
    (ht : MicroOpDone u s t) : Pending us t := by
  have hlt := (List.getElem?_eq_some_iff.mp h.atUpc).1
  have hexp : expansion t.params t.regs = expansion s.params s.regs := by
    rw [ht.regs, ht.params]
    exact expansion_microStep s u s.params
  have hupc : t.regs.upc.toNat = s.regs.upc.toNat + 1 := by
    rw [ht.regs, ← toNat_upc_succ hlt, ← microStep_upc s u]
  refine ⟨by rw [ht.regs, ← h.busy, ← microStep_busy s u], by rw [ht.regs], by rw [hexp, hupc]; exact hlt, ?_⟩
  rw [hexp, hupc, ← List.tail_drop, h.rest, List.tail_cons]

/-- A delay ends at the first sample in which the timer answers. -/
theorem run_delay {s : State} {m : Nat} (hb : s.regs.busy = true) (hd : s.regs.dly = true)
    (h : edgesFor true [] s.script = some m) : ∃ t, Host.Core.run core m s = .next t ∧ DelayDone m s t := by
  generalize hl : s.script = l at h
  induction l generalizing s m with
  | nil => simp [edgesFor] at h
  | cons i l ih =>
    have hnow := now_of_script hl
    rcases hrst : i.rst with _ | _
    · simp only [edgesFor, hrst, Bool.false_eq_true, if_false, Option.map_eq_some_iff] at h
      obtain ⟨m', hm', rfl⟩ := h
      rcases hdone : i.dlyDone with _ | _
      · obtain ⟨rx, hrx, hstep⟩ := step_waiting (by rwa [hnow]) hb hd (by rwa [hnow])
        obtain ⟨t, hrun, ht⟩ := ih (s := s.setRx rx) hb hd (by simp [hl]) (by simpa [hdone] using hm')
        refine ⟨t, (run_succ m' hstep).trans hrun, ht.regs, ht.params, ht.trace, ht.obs, ht.rx.head hrx, ?_⟩
        rw [ht.script, State.setRx_script, hl, List.tail_cons, List.drop_succ_cons]
      · obtain rfl : 0 = m' := by simpa [hdone, edgesFor] using hm'
        refine ⟨s.delayEnd, run_succ 0 (step_delayEnd (by rwa [hnow]) hb hd (by rwa [hnow])), rfl, rfl, rfl, rfl,
          .refl, ?_⟩
        simp [hl]
    · simp [edgesFor, hrst] at h

/-- A micro-op that is next, on the edges it takes. -/
theorem run_microOp {u : MicroOp} {us : List MicroOp} {s : State} {m : Nat} (hp : Pending (u :: us) s)
    (h : edgesFor false [u] s.script = some m) : ∃ t, Host.Core.run core m s = .next t ∧ MicroOpDone u s t := by
  rcases hl : s.script with _ | ⟨i, l⟩
  · simp [hl, edgesFor] at h
  · have hnow := now_of_script hl
    have hedges := h
    rw [hl] at h
    rcases hrst : i.rst with _ | _
    · simp only [edgesFor, hrst, Bool.false_eq_true, if_false, Option.map_eq_some_iff] at h
      obtain ⟨m', hm', rfl⟩ := h
      have hstep := step_microOp (by rwa [hnow]) hp.busy hp.dly hp.atUpc
      have hscript : (s.microStep u).script = l := by simp [hl]
      rcases hu : u.isPin with _ | _
      · rw [hu] at hm'
        obtain rfl : 0 = m' := by simpa [edgesFor] using hm'
        obtain rfl := eq_dioRd_of_not_isPin hu
        refine ⟨_, run_succ 0 hstep, ?_, rfl, (List.append_nil _).symm, rfl, .refl, 1, hedges, by simp⟩
        have hdly : (s.microStep .dioRd).regs.dly = false := hp.dly
        rw [← hdly]
      · rw [hu, ← hscript] at hm'
        have hdly : (s.microStep u).regs.dly = true := by rw [microStep_pin s hu]; rfl
        obtain ⟨t, hrun, ht⟩ := run_delay ((microStep_busy s u).trans hp.busy) hdly hm'
        refine ⟨t, (run_succ m' hstep).trans hrun, ht.regs, ht.params.trans (microStep_params s u), ?_, ht.obs, ht.rx,
          _, hedges, ?_⟩
        · rw [ht.trace, if_pos hu]
        · rw [ht.script, hscript, hl, List.drop_succ_cons]
    · simp [edgesFor, hrst] at h

/-- The micro-ops that come next, on the edges they take. -/
theorem run_microOps {us rest : List MicroOp} {s : State} {n : Nat} (hp : Pending (us ++ rest) s)
    (h : edgesFor false us s.script = some n) :
    ∃ t, Host.Core.run core n s = .next t ∧ MicroRun us s t ∧ Pending rest t ∧ t.script = s.script.drop n := by
  induction us generalizing s n with
  | nil =>
    obtain rfl : 0 = n := by simpa [edgesFor] using h
    exact ⟨s, rfl, .nil s, hp, rfl⟩
  | cons u us ih =>
    obtain ⟨m, k, rfl, hm, hk⟩ := edgesFor_cons h
    obtain ⟨s', hrun, hdone⟩ := run_microOp hp hm
    have hscript : s'.script = s.script.drop m := by
      obtain ⟨m', hm', e⟩ := hdone.edges
      obtain rfl : m' = m := Option.some.inj (hm'.symm.trans hm)
      exact e
    obtain ⟨t, hrun', ht, hrest, hscript'⟩ := ih (hp.tail hdone) (hscript ▸ hk)
    refine ⟨t, (run_add m k hrun).trans hrun', .cons hdone ht, hrest, ?_⟩
    rw [hscript', hscript, List.drop_drop]

/-- After its acceptance the whole expansion of a word is left. -/
theorem pending_acceptWord {s : State} {w : CommandWord} (hd : s.regs.dly = false) :
    Pending (wordExpansion s w) (s.acceptWord w) :=
  ⟨rfl, hd, Nat.zero_le _, rfl⟩

/-- A whole command (R125): its acceptance, a run of its expansion, and its completing step. -/
theorem run_command {s : State} {w : CommandWord} {n : Nat} (h : OfferedFor w n s) :
    ∃ t, Host.Core.run core (n + 2) s = .next t.complete ∧ MicroRun (wordExpansion s w) (s.acceptWord w) t := by
  obtain ⟨hb, hd, hrst, hv, rfl, hn, i, l, hl, hi⟩ := h
  have hp : Pending (wordExpansion s s.now.cmdWord ++ []) (s.acceptWord s.now.cmdWord) := by
    rw [List.append_nil]
    exact pending_acceptWord hd
  obtain ⟨t, hrun, ht, hend, hscript⟩ := run_microOps hp hn
  have hnow : t.now = i := now_of_script (hscript.trans hl)
  have hlast : step t = .next t.complete := step_complete (by rwa [hnow]) hend.busy hend.dly hend.atEnd
  refine ⟨t, ?_, ht⟩
  calc Host.Core.run core (n + 1 + 1) s
      = Host.Core.run core (n + 1) (s.acceptWord s.now.cmdWord) := run_succ (n + 1) (step_accept hrst hb hv)
    _ = Host.Core.run core 1 t := run_add n 1 hrun
    _ = .next t.complete := run_succ 0 hlast

end Sys2Proof.Machine
end

section
/-! SUPPORT. The family 20_memory.md, the acknowledgement slots: what a run of micro-ops leaves in the trace and in the
status bits (R25, R26, R123), assertions over such runs, and what they say where the receiver answers (R65, R118, log 22). -/

namespace Sys2Proof.Machine

/-! ### What a run of micro-ops leaves behind (R123, R25, R26) -/

theorem isTraceOf_cons_pin {u : MicroOp} (hu : u.isPin = true) (us : List MicroOp) (tr : List Event) :
    isTraceOf (u :: us) (.pin u :: .wait :: tr) = isTraceOf us tr := by
  simp [isTraceOf, hu]

theorem isTraceOf_cons_dioRd (v : Bool) (us : List MicroOp) (tr : List Event) :
    isTraceOf (.dioRd :: us) (.sample v :: tr) = isTraceOf us tr := by
  simp [isTraceOf, MicroOp.isPin]

/-- The trace of a run is that of its list, and the status bits follow its samples (R25, R26). -/
theorem MicroRun.trace_flags {us : List MicroOp} {s t : State} (h : MicroRun us s t) :
    ∃ tr, t.trace = s.trace ++ tr ∧ isTraceOf us tr = true ∧
      t.regs.nackAny = (s.regs.nackAny || decide (.sample true ∈ tr)) ∧
      t.regs.ackLast = lastSample s.regs.ackLast tr := by
  induction h with
  | nil s => exact ⟨[], by simp, rfl, by simp, rfl⟩
  | @cons u us s s' t first _ ih =>
    obtain ⟨tr, htrace, hus, hnack, hack⟩ := ih
    rw [first.trace] at htrace
    rw [first.regs] at hnack hack
    rcases hu : u.isPin with _ | _
    · obtain rfl := eq_dioRd_of_not_isPin hu
      refine ⟨.sample s.sample :: tr, ?_, (isTraceOf_cons_dioRd _ us tr).trans hus, hnack.trans ?_, hack⟩
      · rw [htrace]
        change s.trace ++ [Event.sample s.sample] ++ [] ++ tr = _
        simp
      · change (s.regs.nackAny || s.sample || _) = _
        cases s.sample <;> simp
    · rw [microStep_pin s hu, hu] at htrace
      rw [microStep_pin s hu] at hnack hack
      refine ⟨.pin u :: .wait :: tr, ?_, (isTraceOf_cons_pin hu us tr).trans hus, hnack.trans ?_, hack⟩
      · rw [htrace]
        simp
      · change (s.regs.nackAny || _) = _
        simp

/-- Where every sample is 0 the last one is, if there is one. -/
theorem lastSample_of_no_nack {tr : List Event} (hno : .sample true ∉ tr) : lastSample false tr = false := by
  induction tr with
  | nil => rfl
  | cons e tr ih =>
    obtain ⟨he, htr⟩ := not_or.mp (List.mem_cons.not.mp hno)
    cases e with
    | pin u => exact ih htr
    | wait => exact ih htr
    | sample v =>
      cases v
      · exact ih htr
      · exact absurd rfl he

/-- A list with a `DIO_RD` leaves `ACK_LAST` = 0 if every sample of its trace is 0 (R25, R118). -/
theorem lastSample_of_dioRd_mem {us : List MicroOp} {tr : List Event} (v : Bool) (h : isTraceOf us tr = true)
    (hmem : .dioRd ∈ us) (hno : .sample true ∉ tr) : lastSample v tr = false := by
  induction us, tr using isTraceOf.induct generalizing v with
  | case1 => cases hmem
  | case2 u us u' tr ih =>
    simp only [isTraceOf, Bool.and_eq_true] at h
    obtain ⟨⟨hu, -⟩, hus⟩ := h
    have hne : MicroOp.dioRd ≠ u := by rintro rfl; cases hu
    exact ih v hus ((List.mem_cons.mp hmem).resolve_left hne) fun hm => hno (.tail _ (.tail _ hm))
  | case3 u us w tr ih =>
    obtain ⟨hw, htr⟩ := not_or.mp (List.mem_cons.not.mp hno)
    cases w
    · exact lastSample_of_no_nack htr
    · exact absurd rfl hw
  | case4 us tr => simp [isTraceOf] at h

/-! ### Assertions over the runs of a micro-op list -/

/-- Every run of `us` from a state with `P` ends in a state with `Q`. -/
def Ensures (P : State → Prop) (us : List MicroOp) (Q : State → Prop) : Prop := ∀ s t, P s → MicroRun us s t → Q t

theorem Ensures.nil (P : State → Prop) : Ensures P [] P := by
  intro s t hP h
  cases h
  exact hP

theorem Ensures.cons {P Q R : State → Prop} {u : MicroOp} {us : List MicroOp} (hu : Ensures P [u] Q)
    (hus : Ensures Q us R) : Ensures P (u :: us) R := by
  intro s t hP h
  cases h with
  | cons first rest => exact hus _ t (hu s _ hP (.cons first (.nil _))) rest

theorem Ensures.append {P Q R : State → Prop} {us vs : List MicroOp} (hus : Ensures P us Q) (hvs : Ensures Q vs R) :
    Ensures P (us ++ vs) R := by
  induction us generalizing P with
  | nil => exact fun s t hP h => hvs s t (hus s s hP (.nil s)) h
  | cons u us ih =>
    intro s t hP h
    cases h with
    | @cons _ _ _ s' _ first rest =>
      refine ih (P := fun s'' => s'' = s') ?_ s' t rfl rest
      rintro _ t' rfl h'
      exact hus s t' hP (.cons first h')

/-- One micro-op: what it does, with its delay. -/
theorem Ensures.single {P Q : State → Prop} {u : MicroOp} (h : ∀ s t, P s → MicroOpDone u s t → Q t) :
    Ensures P [u] Q := by
  intro s t hP hrun
  cases hrun with
  | cons first rest =>
    cases rest
    exact h s t hP first

/-! ### Where the receiver answers (R65, log 22) -/

theorem take_answers {rx : Receiver} {i : Instr} (hi : codeSpace i = .wireFirst ∨ codeSpace i = .wireLater) :
    (rx.take i).answers = rx.answers := by
  rcases take_cases rx hi with e | ⟨d, m, c, p, e, -⟩ <;> rw [e]
  · rfl
  · exact (pop_fields _ p).2.2.2.2

theorem receiverTakes_answers {rx rx' : Receiver} (h : ReceiverTakes rx rx') : rx'.answers = rx.answers := by
  rcases h with rfl | ⟨-, rfl⟩ | ⟨v, vs, i, -, -, hi, rfl⟩
  · rfl
  · rfl
  · exact take_answers hi

theorem microStep_answers (s : State) (u : MicroOp) : (s.microStep u).rx.answers = s.rx.answers := by
  cases takenAtClose_microStep s u with
  | stays _ e => rw [e]
  | closes bs _ e => rw [e, takeTxn_answers]

theorem waiting_answers {rx rx' : Receiver} (h : Relation.ReflTransGen ReceiverTakes rx rx') :
    rx'.answers = rx.answers := by
  induction h with
  | refl => rfl
  | tail _ hlast ih => exact (receiverTakes_answers hlast).trans ih

theorem MicroOpDone.answers {u : MicroOp} {s t : State} (h : MicroOpDone u s t) : t.rx.answers = s.rx.answers :=
  (waiting_answers h.rx).trans (microStep_answers s u)

/-- The lines carry what the pins drive (R23, R24). -/
def Pins.Shows (p : Pins) (l : Lines) : Prop :=
  (p.clkOe = true → l.clk = p.clkO) ∧ (p.dioOe = true → l.dio = p.dioO)

/-- Two driven lines are what the latches say. -/
theorem Pins.Shows.eq {p : Pins} {l : Lines} (h : p.Shows l) (hclk : p.clkOe = true) (hdio : p.dioOe = true) :
    l = { clk := p.clkO, dio := p.dioO } := by
  obtain ⟨c, d⟩ := l
  exact congrArg₂ Lines.mk (h.1 hclk) (h.2 hdio)

theorem pinsOf_shows_lines (s : State) (r : Regs) : (pinsOf r).Shows (s.lines r) :=
  ⟨fun h => if_pos h, fun h => if_pos h⟩

/-- The pins are `p`, the observer is as `O` says, the receiver answers, and so far every byte was acknowledged. -/
structure Answered (p : Pins) (O : Observer → Prop) (s : State) : Prop where
  pins : pinsOf s.regs = p
  obs : O s.obs
  answers : s.rx.answers = true
  noNack : s.regs.nackAny = false

/-- A pin micro-op: the observer sees lines that show the pins before and after (R64). -/
theorem answered_pin {p : Pins} {O O' : Observer → Prop} {u : MicroOp} (hu : u.isPin = true)
    (h : ∀ o before after, O o → p.Shows before → (p.write u).Shows after → O' (o.see before after)) :
    Ensures (Answered p O) [u] (Answered (p.write u) O') := by
  refine .single fun s t hs ht => ?_
  have hregs := ht.regs
  have hobs := ht.obs
  rw [microStep_pin s hu] at hregs hobs
  refine ⟨by rw [hregs, ← hs.pins]; rfl, ?_, ht.answers.trans hs.answers, by rw [hregs, ← hs.noNack]; rfl⟩
  rw [hobs]
  refine h _ _ _ hs.obs (hs.pins ▸ pinsOf_shows_lines s s.regs) ?_
  rw [← hs.pins]
  exact pinsOf_shows_lines s (s.regs.withPins _)

/-- A sample in an acknowledgement slot reads 0 (R65, R118). -/
theorem answered_dioRd {p : Pins} {O : Observer → Prop} (hdio : p.dioOe = false)
    (h : ∀ o, O o → o.inAckSlot = true) : Ensures (Answered p O) [.dioRd] (Answered p O) := by
  refine .single fun s t hs ht => ?_
  have hoe : s.regs.dioOe = false := by rw [← hdio, ← hs.pins]; rfl
  have hsample : s.sample = false := by
    rw [State.sample, dioLine, hoe]
    exact env_answered hs.answers (h _ hs.obs)
  have hnack : t.regs.nackAny = (s.regs.nackAny || s.sample) := by rw [ht.regs]; rfl
  refine ⟨by rw [ht.regs, ← hs.pins]; rfl, ?_, ht.answers.trans hs.answers, ?_⟩
  · rw [ht.obs]
    exact hs.obs
  · rw [hnack, hs.noNack, hsample]
    rfl

/-! ### What the observer sees (R64) -/

/-- With CLOCK low after it, an event is nothing to the observer. -/
theorem see_clkLow {o : Observer} {before after : Lines} (h : after.clk = false) :
    o.see before after = { o with prev := some after } := by
  simp [Observer.see, Observer.react, isStart, isStop, h]

/-- A rising CLOCK edge in a transaction. -/
theorem see_rise {o : Observer} {before after l : Lines} (htxn : o.inTxn = true) (hprev : o.prev = some l)
    (hl : l.clk = false) (ha : after.clk = true) :
    o.see before after = { o.risingEdge after.dio with prev := some after } := by
  simp [Observer.see, Observer.react, Observer.start, isStart, isStop, htxn, hprev, hl, ha]

/-- A start condition from both lines high. -/
theorem see_start {o : Observer} {before : Lines} (h : o.start before = { clk := true, dio := true }) :
    o.see before { clk := true, dio := false } =
      { o with inTxn := true, bits := [], k := 0, bytes := [], prev := some { clk := true, dio := false } } := by
  simp [Observer.see, Observer.react, h, isStart]

/-- A transaction is open with `k` rising edges so far, and CLOCK was last seen at `c`. -/
def Sending (k : Nat) (c : Bool) (o : Observer) : Prop :=
  o.inTxn = true ∧ o.k = k ∧ ∃ l, o.prev = some l ∧ l.clk = c

/-- The last pair seen, if any, has both lines high. -/
def RestsHigh (o : Observer) : Prop := ∀ l, o.prev = some l → l = { clk := true, dio := true }

/-- With CLOCK high after its ninth edge the wire is in an acknowledgement slot. -/
theorem Sending.inAckSlot {k : Nat} {o : Observer} (hk : k % 9 = 0) (hpos : k ≠ 0) (h : Sending k true o) :
    o.inAckSlot = true := by
  obtain ⟨htxn, rfl, l, hprev, hl⟩ := h
  simp [Observer.inAckSlot, htxn, hprev, hl, hk, hpos]

/-- As `Answered`, on the idle bus: both lines driven high and last seen so (R35). -/
abbrev AnsweredIdle : State → Prop := Answered idlePins RestsHigh

/-- As `Answered`, in an open transaction with `k` rising edges so far and both lines driven. -/
def AnsweredSending (k : Nat) (s : State) : Prop :=
  ∃ p c, p.clkOe = true ∧ p.dioOe = true ∧ Answered p (Sending k c) s

theorem Ensures.of_answeredSending {k : Nat} {us : List MicroOp} {Q : State → Prop}
    (h : ∀ p c, p.clkOe = true → p.dioOe = true → Ensures (Answered p (Sending k c)) us Q) :
    Ensures (AnsweredSending k) us Q :=
  fun s t ⟨p, c, hclk, hdio, hs⟩ => h p c hclk hdio s t hs

theorem Ensures.to_answeredSending {k : Nat} {c : Bool} {us : List MicroOp} {P : State → Prop} {p : Pins}
    (hclk : p.clkOe = true) (hdio : p.dioOe = true) (h : Ensures P us (Answered p (Sending k c))) :
    Ensures P us (AnsweredSending k) :=
  fun s t hP hrun => ⟨p, c, hclk, hdio, h s t hP hrun⟩

/-- A micro-op that leaves CLOCK driven low, whatever it does to DATA. -/
theorem answered_clkLow {p : Pins} {k : Nat} {c : Bool} {u : MicroOp} (hu : u.isPin = true)
    (hoe : (p.write u).clkOe = true) (hlow : (p.write u).clkO = false) :
    Ensures (Answered p (Sending k c)) [u] (Answered (p.write u) (Sending k false)) := by
  refine answered_pin hu fun o before after ⟨htxn, hk, _⟩ _ hafter => ?_
  have hclk : after.clk = false := (hafter.1 hoe).trans hlow
  rw [see_clkLow hclk]
  exact ⟨htxn, hk, after, rfl, hclk⟩

/-- A rising edge of a driven CLOCK. -/
theorem answered_clkHi {p : Pins} {k : Nat} (hoe : p.clkOe = true) :
    Ensures (Answered p (Sending k false)) [.clkHi] (Answered (p.write .clkHi) (Sending (k + 1) true)) := by
  refine answered_pin rfl fun o before after ⟨htxn, hk, l, hprev, hl⟩ _ hafter => ?_
  have hclk : after.clk = true := hafter.1 hoe
  rw [see_rise htxn hprev hl hclk]
  exact ⟨by simp [htxn], by simp [hk], after, rfl, hclk⟩

/-- A micro-op that leaves both lines driven high. -/
theorem answered_restsHigh {p : Pins} {O : Observer → Prop} {u : MicroOp} (hu : u.isPin = true)
    (h : p.write u = idlePins) : Ensures (Answered p O) [u] AnsweredIdle := by
  have hidle : Ensures (Answered p O) [u] (Answered (p.write u) RestsHigh) := by
    refine answered_pin hu fun o before after _ _ hafter l hl => ?_
    obtain rfl : after = l := Option.some.inj hl
    rw [h] at hafter
    exact hafter.eq rfl rfl
  rwa [h] at hidle

/-- A micro-op of which only the pins matter. -/
theorem answered_anyObserver {p : Pins} {O : Observer → Prop} {u : MicroOp} (hu : u.isPin = true) :
    Ensures (Answered p O) [u] (Answered (p.write u) fun _ => True) :=
  answered_pin hu fun _ _ _ _ _ _ => trivial

/-! ### The lists of a transaction (R130 to R135) -/

theorem answered_bitList (k : Nat) (v : Bool) : Ensures (AnsweredSending k) (bitList v) (AnsweredSending (k + 1)) := by
  refine .of_answeredSending fun p c hclk hdio => ?_
  have hdata : Ensures (Answered { p with clkO := false } (Sending k false)) [if v then .dioHi else .dioLo]
      (Answered { p with clkO := false, dioO := v } (Sending k false)) := by
    cases v <;> exact answered_clkLow rfl hclk rfl
  refine .to_answeredSending (p := { p with clkO := true, dioO := v }) (c := true) hclk hdio ?_
  refine .cons (Q := Answered { p with clkO := false } (Sending k false)) (answered_clkLow rfl hclk rfl) ?_
  exact hdata.cons (answered_clkHi hclk)

/-- The acknowledgement slot: with DATA released under a high CLOCK the sample reads the receiver's 0. -/
theorem answered_ackSlot {k : Nat} (hk : (k + 1) % 9 = 0) :
    Ensures (AnsweredSending k) ackSlot (AnsweredSending (k + 1)) := by
  refine .of_answeredSending fun p c hclk hdio => ?_
  refine .to_answeredSending (p := { p with clkO := false, dioOe := true }) (c := false) hclk rfl ?_
  refine .cons (Q := Answered { p with clkO := false } (Sending k false)) (answered_clkLow rfl hclk rfl) ?_
  refine .cons (Q := Answered { p with clkO := false, dioOe := false } (Sending k false))
    (answered_clkLow rfl hclk rfl) ?_
  refine .cons (Q := Answered { p with clkO := true, dioOe := false } (Sending (k + 1) true)) (answered_clkHi hclk) ?_
  refine .cons (answered_dioRd rfl fun o ho => ho.inAckSlot hk (by omega)) ?_
  refine .cons (Q := Answered { p with clkO := false, dioOe := false } (Sending (k + 1) false))
    (answered_clkLow rfl hclk rfl) ?_
  exact answered_clkLow rfl hclk rfl

theorem answered_sendByte {k : Nat} (hk : k % 9 = 0) (b : Byte) :
    Ensures (AnsweredSending k) (sendByte b) (AnsweredSending (k + 9)) :=
  ((((((((answered_bitList k _).append (answered_bitList (k + 1) _)).append (answered_bitList (k + 2) _)).append
    (answered_bitList (k + 3) _)).append (answered_bitList (k + 4) _)).append (answered_bitList (k + 5) _)).append
    (answered_bitList (k + 6) _)).append (answered_bitList (k + 7) _)).append (answered_ackSlot (k := k + 8) (by omega))

theorem answered_sendBytes {k : Nat} (hk : k % 9 = 0) (bs : List Byte) :
    Ensures (AnsweredSending k) (bs.flatMap sendByte) (AnsweredSending (k + 9 * bs.length)) := by
  induction bs generalizing k with
  | nil => exact .nil _
  | cons b bs ih =>
    have hlen : k + 9 * (b :: bs).length = k + 9 + 9 * bs.length := by rw [List.length_cons]; omega
    rw [List.flatMap_cons, hlen]
    exact (answered_sendByte hk b).append (ih (by omega))

theorem answered_startList : Ensures AnsweredIdle startList (AnsweredSending 0) := by
  refine .to_answeredSending (p := { idlePins with dioO := false }) (c := true) rfl rfl ?_
  refine answered_pin (u := .dioLo) rfl fun o before after ho hbefore hafter => ?_
  have hstart : o.start before = { clk := true, dio := true } := by
    rcases hprev : o.prev with _ | l
    · rw [Observer.start, hprev]
      exact hbefore.eq rfl rfl
    · rw [Observer.start, hprev]
      exact ho l hprev
  obtain rfl : after = { clk := true, dio := false } := hafter.eq rfl rfl
  rw [see_start hstart]
  exact ⟨rfl, rfl, _, rfl, rfl⟩

theorem answered_stopList (k : Nat) : Ensures (AnsweredSending k) stopList AnsweredIdle := by
  refine .of_answeredSending fun p c hclk hdio => ?_
  refine (answered_anyObserver rfl).cons ((answered_anyObserver rfl).cons (answered_restsHigh rfl ?_))
  simp [Pins.write, idlePins, hclk, hdio]

/-- A transaction run from the idle bus leaves it idle, with every byte acknowledged. -/
theorem answered_txn (bs : List Byte) : Ensures AnsweredIdle (txn bs) AnsweredIdle :=
  (answered_startList.append (answered_sendBytes rfl bs)).append (answered_stopList _)

theorem answered_dseg (p v : Byte) (en : Bool) (brt : Byte) : Ensures AnsweredIdle (dseg p v en brt) AnsweredIdle :=
  ((answered_txn _).append (answered_txn _)).append (answered_txn _)

/-- `LINES_INIT` makes the bus idle from any pins and any observer (R154). -/
theorem answered_linesInit (p : Pins) (O : Observer → Prop) : Ensures (Answered p O) linesInit AnsweredIdle :=
  (answered_anyObserver rfl).cons <| (answered_anyObserver rfl).cons <| (answered_anyObserver rfl).cons
    (answered_restsHigh rfl rfl)

/-- A whole command from the idle bus. -/
theorem answered_expand (prm : Params) (op : BitVec 3) (a b : Byte) (en : Bool) (brt : Byte) :
    Ensures AnsweredIdle (expand prm op a b en brt) AnsweredIdle := by
  rcases expand_cases prm op a b en brt with ⟨-, h⟩ | ⟨-, h⟩ | ⟨-, h⟩ | ⟨-, h⟩ | ⟨-, h⟩ | ⟨-, h⟩ | ⟨-, h⟩ <;> rw [h]
  · exact (answered_linesInit _ _).append (answered_txn _)
  · exact answered_txn _
  · exact answered_dseg _ _ _ _
  · exact answered_dseg _ _ _ _
  · exact answered_dseg _ _ _ _
  · exact (((answered_dseg _ _ _ _).append (answered_dseg _ _ _ _)).append (answered_dseg _ _ _ _)).append
      (answered_dseg _ _ _ _)
  · exact .nil _

/-- An `INIT` from any pins. -/
theorem answered_expand_init (prm : Params) (a b : Byte) (en : Bool) (brt : Byte) (p : Pins) (O : Observer → Prop) :
    Ensures (Answered p O) (expand prm 0 a b en brt) AnsweredIdle := by
  change Ensures (Answered p O) (linesInit ++ txn [ctlByte en brt]) AnsweredIdle
  exact (answered_linesInit p O).append (answered_txn _)

/-! ### A command where the receiver answers -/

theorem dioRd_mem_txn {bs : List Byte} (h : bs ≠ []) : .dioRd ∈ txn bs := by
  obtain ⟨b, bs, rfl⟩ := List.exists_cons_of_ne_nil h
  have hslot : .dioRd ∈ sendByte b := List.mem_append_right _ (by decide)
  have hbytes : .dioRd ∈ (b :: bs).flatMap sendByte := List.mem_flatMap.mpr ⟨b, List.mem_cons_self, hslot⟩
  exact List.mem_append_left _ (List.mem_append_right _ hbytes)

theorem dioRd_mem_dseg (p v : Byte) (en : Bool) (brt : Byte) : .dioRd ∈ dseg p v en brt :=
  List.mem_append_right _ (dioRd_mem_txn (List.cons_ne_nil _ _))

/-- Every command but the reserved one sends a byte, so it has an acknowledgement slot. -/
theorem dioRd_mem_expand (prm : Params) {op : BitVec 3} (a b : Byte) (en : Bool) (brt : Byte) (h : op ≠ 7) :
    .dioRd ∈ expand prm op a b en brt := by
  rcases expand_cases prm op a b en brt with ⟨-, e⟩ | ⟨-, e⟩ | ⟨-, e⟩ | ⟨-, e⟩ | ⟨-, e⟩ | ⟨-, e⟩ | ⟨h7, -⟩
  · rw [e]
    exact List.mem_append_right _ (dioRd_mem_txn (List.cons_ne_nil _ _))
  · rw [e]
    exact dioRd_mem_txn (List.cons_ne_nil _ _)
  · exact e ▸ dioRd_mem_dseg _ _ _ _
  · exact e ▸ dioRd_mem_dseg _ _ _ _
  · exact e ▸ dioRd_mem_dseg _ _ _ _
  · exact e ▸ List.mem_append_right _ (dioRd_mem_dseg _ _ _ _)
  · exact absurd h7 h

/-- On a wire ready for the word its expansion ends on the idle bus with every byte acknowledged, where the receiver
answers. -/
theorem answeredIdle_of_wordExpansion {s t : State} {w : CommandWord} (hw : WireReady w s) (ha : s.rx.answers = true)
    (h : MicroRun (wordExpansion s w) (s.acceptWord w) t) : AnsweredIdle t := by
  rcases hw with ⟨hpins, -, hhigh⟩ | ⟨hop, -⟩
  · have hidle : AnsweredIdle (s.acceptWord w) := ⟨hpins, hhigh, ha, rfl⟩
    exact answered_expand _ _ _ _ _ _ _ _ hidle h
  · rw [wordExpansion, hop] at h
    have hany : Answered (pinsOf s.regs) (fun _ => True) (s.acceptWord w) := ⟨rfl, trivial, ha, rfl⟩
    exact answered_expand_init _ _ _ _ _ _ _ _ _ hany h

/-- Settles O59: a run of the expansion (`run_command`) keeps `NACK_ANY` = 0 through every acknowledgement slot
(`answeredIdle_of_wordExpansion`), so no sample of its trace is 1. -/
theorem receiverAcknowledges : Obligations.ReceiverAcknowledges := by
  intro s w n hoffered hw ha
  obtain ⟨t, hrun, hmicro⟩ := run_command hoffered
  obtain ⟨tr, htrace, htraceOf, hnack, hack⟩ := hmicro.trace_flags
  have hno : t.regs.nackAny = false := (answeredIdle_of_wordExpansion hw ha hmicro).noNack
  have hsamples : .sample true ∉ tr := by
    rw [hno] at hnack
    simpa [State.acceptWord] using hnack
  refine ⟨t.complete, tr, hrun, htrace, htraceOf, hsamples, hno, fun hop => ?_⟩
  exact hack.trans (lastSample_of_dioRd_mem _ htraceOf (dioRd_mem_expand _ _ _ _ _ hop) hsamples)

end Sys2Proof.Machine
end

section
/-! SUPPORT. The family 30_encoding.md: command words and their fields, the decoder on each code space as bit vectors,
decode and encode as inverses, and the expansions as lists of transactions (30_encoding.md R80 to R95). -/

namespace Sys2Proof.Machine

/-! ### A command word and its fields (R80) -/

theorem toNat_opField (w : CommandWord) : (opField w).toNat = w.toNat / 65536 := by
  rw [opField, BitVec.extractLsb'_toNat, Nat.shiftRight_eq_div_pow]
  omega

theorem toNat_aField (w : CommandWord) : (aField w).toNat = w.toNat / 256 % 256 := by
  rw [aField, BitVec.extractLsb'_toNat, Nat.shiftRight_eq_div_pow]

theorem toNat_bField (w : CommandWord) : (bField w).toNat = w.toNat % 256 := by
  rw [bField, BitVec.extractLsb'_toNat, Nat.shiftRight_zero]

/-- The value of a command word (R80): its three fields do not overlap. -/
theorem toNat_commandWord (op : BitVec 3) (a b : Byte) :
    (commandWord op a b).toNat = op.toNat * 65536 + a.toNat * 256 + b.toNat := by
  have hop := op.isLt
  have ha := a.isLt
  have hor : op.toNat <<< 16 ||| a.toNat <<< 8 ||| b.toNat = (op.toNat <<< 8 + a.toNat) <<< 8 + b.toNat := by
    rw [Nat.shiftLeft_add_eq_or_of_lt b.isLt, Nat.shiftLeft_add_eq_or_of_lt a.isLt, Nat.shiftLeft_or_distrib,
      ← Nat.shiftLeft_add]
  have hval : (commandWord op a b).toNat = op.toNat <<< 16 ||| a.toNat <<< 8 ||| b.toNat := by
    simp only [commandWord, BitVec.toNat_or, BitVec.toNat_shiftLeft, BitVec.toNat_setWidth]
    simp (disch := omega) only [Nat.mod_eq_of_lt, Nat.shiftLeft_eq]
  rw [hval, hor]
  omega

@[simp] theorem opField_commandWord (op : BitVec 3) (a b : Byte) : opField (commandWord op a b) = op := by
  apply BitVec.eq_of_toNat_eq
  rw [toNat_opField, toNat_commandWord]
  omega

@[simp] theorem aField_commandWord (op : BitVec 3) (a b : Byte) : aField (commandWord op a b) = a := by
  apply BitVec.eq_of_toNat_eq
  rw [toNat_aField, toNat_commandWord]
  omega

@[simp] theorem bField_commandWord (op : BitVec 3) (a b : Byte) : bField (commandWord op a b) = b := by
  apply BitVec.eq_of_toNat_eq
  rw [toNat_bField, toNat_commandWord]
  omega

/-- A word is assembled from its own fields. -/
theorem commandWord_fields (w : CommandWord) : commandWord (opField w) (aField w) (bField w) = w := by
  apply BitVec.eq_of_toNat_eq
  rw [toNat_commandWord, toNat_opField, toNat_aField, toNat_bField]
  omega

theorem opcode_cases (op : BitVec 3) :
    op = 0#3 ∨ op = 1#3 ∨ op = 2#3 ∨ op = 3#3 ∨ op = 4#3 ∨ op = 5#3 ∨ op = 6#3 ∨ op = 7#3 := by
  revert op
  decide

/-! ### Commands: the decoder and the encoder as inverses (R83, R84) -/

theorem codeSpace_decodeCommand (w : CommandWord) : codeSpace (decodeCommand w) = .command := by
  unfold decodeCommand
  split <;> rfl

theorem wellFormed_decodeCommand (w : CommandWord) : (decodeCommand w).wellFormed = true := by
  unfold decodeCommand
  split <;> rfl

theorem encode_decodeCommand (w : CommandWord) : encode (decodeCommand w) = w.toNat := by
  have h : encode (decodeCommand w) = (commandWord (opField w) (aField w) (bField w)).toNat := by
    unfold decodeCommand
    rcases opcode_cases (opField w) with h | h | h | h | h | h | h | h <;> rw [h] <;> rfl
  rw [h, commandWord_fields]

/-- The row of a command is chosen by the opcode, which is the word under the mask (R83). -/
theorem rowMatch_decodeCommand (w : CommandWord) : rowMatch (decodeCommand w) = w.toNat &&& 0x70000 := by
  have h : rowMatch (decodeCommand w) = (opField w).toNat * 0x10000 := by
    unfold decodeCommand
    rcases opcode_cases (opField w) with h | h | h | h | h | h | h | h <;> rw [h] <;> rfl
  rw [h, ← Laws.EncodeInRow.commandWord_and_mask _ (aField w) (bField w), commandWord_fields]

/-- Every command, whatever its operands, is what some word decodes to. -/
theorem exists_decodeCommand {i : Instr} (h : codeSpace i = .command) : ∃ w, decodeCommand w = i := by
  cases i
  case init a b => exact ⟨commandWord 0 a b, by simp [decodeCommand]⟩
  case enable a b => exact ⟨commandWord 1 a b, by simp [decodeCommand]⟩
  case setBrightness a b => exact ⟨commandWord 2 a b, by simp [decodeCommand]⟩
  case displaySegments a b => exact ⟨commandWord 3 a b, by simp [decodeCommand]⟩
  case displayDigit a b => exact ⟨commandWord 4 a b, by simp [decodeCommand]⟩
  case displayColon a b => exact ⟨commandWord 5 a b, by simp [decodeCommand]⟩
  case clear a b => exact ⟨commandWord 6 a b, by simp [decodeCommand]⟩
  case rsvd7 a b => exact ⟨commandWord 7 a b, by simp [decodeCommand]⟩
  all_goals cases h

/-- Settles O2: the fields of the word give its code back, and its opcode chooses the row. -/
theorem everyWordIsOneCommand : Obligations.EveryWordIsOneCommand := fun w =>
  ⟨codeSpace_decodeCommand w, encode_decodeCommand w, rowMatch_decodeCommand w, wellFormed_decodeCommand w⟩

/-! ### The decoder on each code space -/

theorem decode_command_toNat (w : CommandWord) : decode .command w.toNat = .instr (decodeCommand w) := by
  have hlt : w.toNat < 2 ^ CodeSpace.command.width := w.isLt
  rw [decode, if_pos hlt]
  simp only [BitVec.ofNat_toNat, BitVec.setWidth_eq]

theorem decode_microOp_toNat (c : BitVec 4) : decode .microOp c.toNat = decodeMicroOp c := by
  have hlt : c.toNat < 2 ^ CodeSpace.microOp.width := c.isLt
  rw [decode, if_pos hlt]
  simp only [BitVec.ofNat_toNat, BitVec.setWidth_eq]

theorem decode_wireLater_toNat (v : Byte) : decode .wireLater v.toNat = .instr (.segdata v) := by
  have hlt : v.toNat < 2 ^ CodeSpace.wireLater.width := v.isLt
  rw [decode, if_pos hlt]
  simp [decodeWire]

theorem decode_tooWide {sp : CodeSpace} {w : Nat} (h : 2 ^ sp.width ≤ w) : decode sp w = .reject .tooWide :=
  if_neg (Nat.not_lt.mpr h)

/-! ### Decoding a code (R83, R86 to R90) -/

theorem decode_encode_command {i : Instr} (h : codeSpace i = .command) : decode .command (encode i) = .instr i := by
  obtain ⟨w, rfl⟩ := exists_decodeCommand h
  rw [encode_decodeCommand, decode_command_toNat]

/-- The address class is 0b11, and bits 5 to 0 are the position (R87). -/
theorem decodeWireFirst_addr (p : BitVec 6) : decodeWireFirst (addrByte (p.setWidth 8)) = .instr (.addr p) := by
  revert p
  decide

/-- With bit 6 clear the class is 0b10, and bits 6 to 0 are the operand (R88). -/
theorem decodeWireFirst_ctl {v : BitVec 7} (h : v.getLsbD 6 = false) :
    decodeWireFirst (0x80#8 ||| v.setWidth 8) = .instr (.ctl v) := by
  revert v
  decide

/-- Settles O1: a command is the decoding of a word (`decode_encode_command`), a micro-op code is read off the table,
and a wire byte is decoded by its class or as segment data. -/
theorem decodeOfEncode : Obligations.DecodeOfEncode := by
  intro i hi
  cases i
  case cmdData => rfl
  case addr p => exact (decode_wireFirst_toNat _).trans (decodeWireFirst_addr p)
  case ctl v => exact (decode_wireFirst_toNat _).trans (decodeWireFirst_ctl (by simpa [Instr.wellFormed] using hi))
  case segdata v => exact decode_wireLater_toNat v
  case clkLo | clkHi | dioLo | dioHi | clkOut | dioOut | dioIn | dioRd => rfl
  all_goals exact decode_encode_command rfl

/-! ### The rejected codes (R84, R90, R65) -/

theorem exists_reject_iff (d : Decoded) : (∃ r, d = .reject r) ↔ decodedInstr d = none := by
  cases d <;> simp [decodedInstr]

/-- The micro-op codes from 8 on are unused (R90). -/
theorem decodeMicroOp_rejects_iff (c : BitVec 4) : (∃ r, decodeMicroOp c = .reject r) ↔ 8 ≤ c.toNat := by
  revert c
  simp only [exists_reject_iff]
  decide

/-- Bits 7 and 6 of a byte, its class on the wire (R65), as a number. -/
theorem toNat_wireClass (v : Byte) : (v.extractLsb' 6 2).toNat = v.toNat / 64 := by
  have hbyte := v.isLt
  rw [BitVec.extractLsb'_toNat, Nat.shiftRight_eq_div_pow]
  omega

/-- The classes without a first byte are 0b00, and 0b01 but for 0x40 (R65, R86). -/
theorem decodeWireFirst_rejects_iff (v : Byte) :
    (∃ r, decodeWireFirst v = .reject r) ↔ v.toNat < 0x40 ∨ (0x40 < v.toNat ∧ v.toNat < 0x80) := by
  have hbyte := v.isLt
  have hclass : v.toNat / 64 = 0 ∨ v.toNat / 64 = 1 ∨ v.toNat / 64 = 2 ∨ v.toNat / 64 = 3 := by omega
  simp only [decodeWireFirst, toNat_wireClass]
  rcases hclass with h | h | h | h <;> simp only [h]
  · exact iff_of_true ⟨_, rfl⟩ (by omega)
  · split
    case isTrue hv => simp [hv]
    case isFalse hv =>
      have hne : v.toNat ≠ 0x40 := fun hv' => hv (BitVec.eq_of_toNat_eq hv')
      exact iff_of_true ⟨_, rfl⟩ (by omega)
  · exact iff_of_false (by simp) (by omega)
  · exact iff_of_false (by simp) (by omega)

/-- Settles O3: a number too wide for its space is rejected, any other is a code of the space, decoded as such. -/
theorem rejectedCodes : Obligations.RejectedCodes := by
  intro sp w
  rcases Nat.lt_or_ge w (2 ^ sp.width) with hw | hw
  · have hfits : ¬2 ^ sp.width ≤ w := Nat.not_le.mpr hw
    cases sp with
    | command =>
      obtain ⟨c, rfl⟩ : ∃ c : CommandWord, c.toNat = w := ⟨.ofNatLT w hw, rfl⟩
      simp [hfits, decode_command_toNat]
    | microOp =>
      obtain ⟨c, rfl⟩ : ∃ c : BitVec 4, c.toNat = w := ⟨.ofNatLT w hw, rfl⟩
      simp [hfits, decode_microOp_toNat, decodeMicroOp_rejects_iff]
    | wireFirst =>
      obtain ⟨c, rfl⟩ : ∃ c : Byte, c.toNat = w := ⟨.ofNatLT w hw, rfl⟩
      simp [hfits, decode_wireFirst_toNat, decodeWireFirst_rejects_iff]
    | wireLater =>
      obtain ⟨c, rfl⟩ : ∃ c : Byte, c.toNat = w := ⟨.ofNatLT w hw, rfl⟩
      simp [hfits, decode_wireLater_toNat]
  · exact ⟨fun _ => .inl hw, fun _ => ⟨_, decode_tooWide hw⟩⟩

/-! ### Expansions as transactions (R93, R95) -/

theorem dseg_eq_flatMap (p v : Byte) (en : Bool) (brt : Byte) :
    dseg p v en brt = (dsegWire p v en brt).flatMap txn := by
  simp [dseg, dsegWire, rawOperand, patternOperand]

/-- The three shapes of a transaction (R95). -/
def WireShape (en : Bool) (brt : Byte) (bs : List Byte) : Prop :=
  bs = [0x40] ∨ bs = [ctlByte en brt] ∨ ∃ p s, bs = [addrByte p, s]

theorem wireShape_of_mem_dsegWire {p v : Byte} {en : Bool} {brt : Byte} {bs : List Byte}
    (h : bs ∈ dsegWire p v en brt) : WireShape en brt bs := by
  simp only [dsegWire, List.mem_cons, List.not_mem_nil, or_false] at h
  rcases h with rfl | rfl | rfl
  · exact .inl rfl
  · exact .inr (.inr ⟨p, v, rfl⟩)
  · exact .inr (.inl rfl)

theorem wireShape_of_mem_wireOf {prm : Params} {op : BitVec 3} {a b : Byte} {en : Bool} {brt : Byte} {bs : List Byte}
    (h : bs ∈ wireOf prm op a b en brt) : WireShape en brt bs := by
  unfold wireOf at h
  split at h
  case h_1 | h_2 | h_3 => exact .inr (.inl (List.mem_singleton.mp h))
  case h_4 | h_5 | h_6 => exact wireShape_of_mem_dsegWire h
  case h_7 =>
    simp only [List.mem_append] at h
    rcases h with ((h | h) | h) | h <;> exact wireShape_of_mem_dsegWire h
  case h_8 => cases h

theorem expand_eq_flatMap (prm : Params) (op : BitVec 3) (a b : Byte) (en : Bool) (brt : Byte) :
    expand prm op a b en brt = (if op = 0 then linesInit else []) ++ (wireOf prm op a b en brt).flatMap txn := by
  rcases opcode_cases op with rfl | rfl | rfl | rfl | rfl | rfl | rfl | rfl <;>
    simp [expand, wireOf, dseg_eq_flatMap]

/-- Settles O46: `expand_eq_flatMap` and `wireShape_of_mem_wireOf`. -/
theorem expansionIsItsTransactions : Obligations.ExpansionIsItsTransactions :=
  fun prm op a b en brt => ⟨expand_eq_flatMap prm op a b en brt, fun _ => wireShape_of_mem_wireOf⟩

theorem expand_displaySegments (prm : Params) (p v : Byte) (en : Bool) (brt : Byte) :
    expand prm 3 p v en brt = dseg p v en brt := rfl

/-- Settles O43: each expansion is written with `dseg`, which is the expansion of `DISPLAY_SEGMENTS`. -/
theorem displayCommandsFromSegments : Obligations.DisplayCommandsFromSegments := by
  intro prm a b c en brt
  simp only [expand_displaySegments]
  exact ⟨rfl, rfl, rfl⟩

/-! ### Sample words and the address byte (R80 to R90) -/

/-- Settles O4: the decoder is run on the nine words. -/
theorem sampleWordsDecode : Obligations.SampleWordsDecode := by
  unfold Obligations.SampleWordsDecode
  decide

theorem addrByte_setWidth (a : Byte) : (addrByte a).setWidth 6 = a.setWidth 6 := by
  have hmask : (0xC0#8).setWidth 6 = 0#6 := by decide
  rw [addrByte, BitVec.setWidth_or, hmask, BitVec.zero_or]

/-- Settles O42: 0xC0 sets bits 7 and 6 and leaves the six below (`addrByte_setWidth`). -/
theorem addressByteBits : Obligations.AddressByteBits :=
  ⟨fun a => ⟨by simp [addrByte], by simp [addrByte], addrByte_setWidth a⟩, by decide⟩

end Sys2Proof.Machine
end

section
/-! SUPPORT. The family 40_pin_microops.md: the invariants of the sequencer (40_pin_microops.md R119, R120), what a
command in progress keeps, the enable of CLOCK (R115, R124), a whole command with its trace and its duration (R123, R125),
and the steps and the micro-ops one by one. -/

namespace Sys2Proof.Machine

/-! ### The order of the sequencer (R120, R121, R29) -/

/-- A micro-op leaves a command in progress, and one taken from the expansion leaves `UPC` inside it. -/
theorem sequencerOk_microStep {s : State} {u : MicroOp} (hb : s.regs.busy = true)
    (hu : (expansion s.params s.regs)[s.regs.upc.toNat]? = some u) : SequencerOk (s.microStep u) := by
  have hlt := (List.getElem?_eq_some_iff.mp hu).1
  refine ⟨fun hb' => by simp [hb] at hb', fun _ => ?_⟩
  rw [microStep_params, expansion_microStep, microStep_upc, toNat_upc_succ hlt]
  exact hlt

/-- A command starts at the front of its expansion. -/
theorem sequencerOk_acceptWord (s : State) (w : CommandWord) : SequencerOk (s.acceptWord w) :=
  ⟨fun hb => (by cases hb), fun _ => Nat.zero_le _⟩

theorem sequencerOk_delayEnd {s : State} (h : SequencerOk s) : SequencerOk s.delayEnd := ⟨fun _ => rfl, h.2⟩

/-- A command completes with no delay running. -/
theorem sequencerOk_complete {s : State} (hd : s.regs.dly = false) : SequencerOk s.complete :=
  ⟨fun _ => hd, fun hb => by cases hb⟩

theorem sequencerOk_resetBlock (s : State) : SequencerOk s.resetBlock := ⟨fun _ => rfl, fun hb => by cases hb⟩

/-- Settles O35: one lemma for each step. -/
theorem sequencerOrderKept : Obligations.SequencerOrderKept := by
  intro s t h hstep
  rcases step_cases hstep with ⟨-, rfl⟩ | ⟨-, hstep⟩
  · exact sequencerOk_resetBlock s
  · rcases hstep with ⟨-, -, -, rfl⟩ | ⟨u, hb, -, hu, he⟩ | ⟨-, hd, -, rfl⟩ | ⟨-, -, he⟩ | ⟨-, rx, -, rfl⟩
    · exact sequencerOk_delayEnd h
    · obtain rfl : s.microStep u = t := by simpa [exec_microOp_eq] using he
      exact sequencerOk_microStep hb hu
    · exact sequencerOk_complete hd
    · obtain rfl : s.acceptWord s.now.cmdWord = t := by simpa [exec_decodeCommand_eq] using he
      exact sequencerOk_acceptWord ..
    · exact h

/-! ### The delay rule (R119, R123) -/

/-- The rule is checked event by event. -/
theorem delayScan_cons (d : Bool) (e : Event) (t : List Event) :
    delayScan d (e :: t) = (delayScan d [e]).bind (delayScan · t) := by
  cases d <;> cases e <;> rfl

theorem delayScan_append (d : Bool) (t t' : List Event) :
    delayScan d (t ++ t') = (delayScan d t).bind (delayScan · t') := by
  induction t generalizing d with
  | nil => rfl
  | cons e t ih =>
    rw [List.cons_append, delayScan_cons, delayScan_cons d e t, Option.bind_assoc]
    simp only [ih]

/-- An event that the rule allows where `DLY` stands keeps it, with the `DLY` it leaves. -/
theorem traceTimed_append {s t : State} {e : Event} (h : TraceTimed s) (ht : t.trace = s.trace ++ [e])
    (he : delayScan s.regs.dly [e] = some t.regs.dly) : TraceTimed t := by
  rw [TraceTimed, ht, delayScan_append, h]
  exact he

/-- A micro-op is run with no delay running; a pin micro-op starts one. -/
theorem traceTimed_microStep {s : State} {u : MicroOp} (h : TraceTimed s) (hd : s.regs.dly = false) :
    TraceTimed (s.microStep u) := by
  rcases hu : u.isPin with _ | _
  · obtain rfl := eq_dioRd_of_not_isPin hu
    have hdly : (s.microStep .dioRd).regs.dly = false := hd
    exact traceTimed_append (e := .sample s.sample) h rfl (by rw [hd, hdly]; rfl)
  · rw [microStep_pin s hu]
    exact traceTimed_append h (State.pinStep_trace ..) (by rw [hd]; rfl)

theorem traceTimed_delayEnd {s : State} (h : TraceTimed s) (hd : s.regs.dly = true) : TraceTimed s.delayEnd :=
  traceTimed_append h s.delayEnd_trace (by rw [hd]; rfl)

/-- Settles O36: only a micro-op and the end of a delay add an event, each where the rule allows it. -/
theorem delayRuleKept : Obligations.DelayRuleKept := by
  intro s t h hstep
  rcases step_cases hstep with ⟨-, rfl⟩ | ⟨hrst, -⟩
  · rfl
  · cases blockStep_of_step hrst hstep with
    | delayEnd _ hd => exact traceTimed_delayEnd h hd
    | microOp u _ hd => exact traceTimed_microStep h hd
    | complete => exact h
    | accept => exact h
    | none => exact h

/-! ### What a command in progress keeps (R121, R183) -/

/-- The same command: the held configuration and the latches that an expansion depends on (R122). -/
structure SameCommand (r r' : Regs) : Prop where
  en : r'.en = r.en
  brt : r'.brt = r.brt
  op : r'.op = r.op
  a : r'.a = r.a
  b : r'.b = r.b

theorem SameCommand.refl (r : Regs) : SameCommand r r := ⟨rfl, rfl, rfl, rfl, rfl⟩

theorem SameCommand.trans {r r' r'' : Regs} (h : SameCommand r r') (h' : SameCommand r' r'') : SameCommand r r'' :=
  ⟨h'.en.trans h.en, h'.brt.trans h.brt, h'.op.trans h.op, h'.a.trans h.a, h'.b.trans h.b⟩

theorem SameCommand.expansion_eq {r r' : Regs} (h : SameCommand r r') (prm : Params) :
    expansion prm r' = expansion prm r := by
  rw [expansion, expansion, h.en, h.brt, h.op, h.a, h.b]

theorem sameCommand_microStep (s : State) (u : MicroOp) : SameCommand s.regs (s.microStep u).regs :=
  ⟨microStep_en s u, microStep_brt s u, microStep_op s u, microStep_a s u, microStep_b s u⟩

/-- Without reset only an acceptance changes the command, and a busy block accepts none. -/
theorem BlockStep.sameCommand {s t : State} (h : BlockStep s t) (hb : s.regs.busy = true) :
    SameCommand s.regs t.regs := by
  cases h with
  | accept hfree => simp [hb] at hfree
  | microOp u => exact sameCommand_microStep s u
  | delayEnd => exact ⟨rfl, rfl, rfl, rfl, rfl⟩
  | complete => exact ⟨rfl, rfl, rfl, rfl, rfl⟩
  | none => exact .refl s.regs

/-- Settles O10: every step of a busy block keeps its command. -/
theorem busyBlockTakesNoCommand : Obligations.BusyBlockTakesNoCommand := by
  intro s t hrst hb hstep
  have h := (blockStep_of_step hrst hstep).sameCommand hb
  exact ⟨h.op, h.a, h.b, h.en, h.brt⟩

/-! ### The enable of CLOCK (R115, R124) -/

@[simp] theorem microStep_clkOe (s : State) (u : MicroOp) :
    (s.microStep u).regs.clkOe = ((pinsOf s.regs).write u).clkOe := congrArg Pins.clkOe (pinsOf_microStep s u)

/-- No micro-op clears the enable of CLOCK. -/
theorem write_clkOe_of_set {p : Pins} (u : MicroOp) (h : p.clkOe = true) : (p.write u).clkOe = true := by
  cases u
  case clkOut => rfl
  all_goals exact h

/-- Only `CLK_OUT` sets the enable of CLOCK. -/
theorem eq_clkOut_of_write_clkOe {p : Pins} {u : MicroOp} (h : p.clkOe = false) (hu : (p.write u).clkOe = true) :
    u = .clkOut := by
  cases u
  case clkOut => rfl
  all_goals exact absurd (h.symm.trans hu) (by decide)

/-- Settles O30: of the steps without reset only a micro-op writes a pin register, and none clears this one. -/
theorem clockEnableOnlyRises : Obligations.ClockEnableOnlyRises := by
  intro s t hrst hstep hset
  cases blockStep_of_step hrst hstep with
  | microOp u => exact (microStep_clkOe s u).trans (write_clkOe_of_set u hset)
  | delayEnd => exact hset
  | complete => exact hset
  | accept => exact hset
  | none => exact hset

theorem clkOut_not_mem_sendByte (b : Byte) : .clkOut ∉ sendByte b := by
  have hbit : ∀ v, .clkOut ∉ bitList v := by decide
  have hslot : .clkOut ∉ ackSlot := by decide
  simp [sendByte, hbit, hslot]

theorem clkOut_not_mem_txn (bs : List Byte) : .clkOut ∉ txn bs := by
  simp [txn, startList, stopList, clkOut_not_mem_sendByte]

/-- Of the expansions only that of `INIT` holds a `CLK_OUT`, in its `LINES_INIT` (R154). -/
theorem op_eq_zero_of_clkOut_mem {prm : Params} {r : Regs} (h : .clkOut ∈ expansion prm r) : r.op = 0 := by
  by_contra hop
  rw [expansion, expand_eq_flatMap, if_neg hop] at h
  simp [clkOut_not_mem_txn] at h

/-- Settles O31: the enable of CLOCK is set by the `CLK_OUT` at `UPC` of a command in progress
(`pinsWrittenByMicroOpsOnly`), which only an `INIT` has. -/
theorem onlyInitDrivesClock : Obligations.OnlyInitDrivesClock := by
  intro s t hrst hstep hclear hset
  have hne : pinsOf t.regs ≠ pinsOf s.regs := fun e => by
    have hclk : t.regs.clkOe = s.regs.clkOe := congrArg Pins.clkOe e
    simp [hset, hclear] at hclk
  obtain ⟨hb, -, u, hu, -, hpins⟩ := pinsWrittenByMicroOpsOnly s t hrst hstep hne
  have hwrite : ((pinsOf s.regs).write u).clkOe = true := (congrArg Pins.clkOe hpins).symm.trans hset
  obtain rfl := eq_clkOut_of_write_clkOe hclear hwrite
  exact ⟨hb, op_eq_zero_of_clkOut_mem (List.mem_of_getElem? hu)⟩

/-! ### A whole command (R125) -/

/-- What is left after a run is what stood behind its list. -/
theorem MicroRun.pending {us rest : List MicroOp} {s t : State} (h : MicroRun us s t) (hp : Pending (us ++ rest) s) :
    Pending rest t := by
  induction h with
  | nil => exact hp
  | cons first _ ih => exact ih (hp.tail first)

theorem MicroRun.params {us : List MicroOp} {s t : State} (h : MicroRun us s t) : t.params = s.params := by
  induction h with
  | nil => rfl
  | cons first _ ih => exact ih.trans first.params

theorem MicroOpDone.sameCommand {u : MicroOp} {s t : State} (h : MicroOpDone u s t) : SameCommand s.regs t.regs := by
  rw [h.regs]
  exact (sameCommand_microStep s u).trans ⟨rfl, rfl, rfl, rfl, rfl⟩

theorem MicroRun.sameCommand {us : List MicroOp} {s t : State} (h : MicroRun us s t) : SameCommand s.regs t.regs := by
  induction h with
  | nil s => exact .refl s.regs
  | cons first _ ih => exact first.sameCommand.trans ih

/-- The samples `l` let `n` edges pass without reset, with the timer answering at each (R125). -/
def AnswersAtOnce (n : Nat) (l : List Inputs) : Prop :=
  n ≤ l.length ∧ ∀ i ∈ l.take n, i.rst = false ∧ i.dlyDone = true

/-- The first of these samples, and the others. -/
theorem AnswersAtOnce.uncons {n : Nat} {l : List Inputs} (h : AnswersAtOnce (n + 1) l) :
    ∃ i l', l = i :: l' ∧ i.rst = false ∧ i.dlyDone = true ∧ AnswersAtOnce n l' := by
  obtain ⟨hlen, hall⟩ := h
  cases l with
  | nil => simp at hlen
  | cons i l' =>
    rw [List.take_succ_cons, List.forall_mem_cons] at hall
    exact ⟨i, l', rfl, hall.1.1, hall.1.2, by simpa using hlen, hall.2⟩

/-- A pin micro-op takes two steps, a `DIO_RD` one (R120, R125). -/
theorem movesOf_cons (u : MicroOp) (us : List MicroOp) :
    movesOf (u :: us) = movesOf us + (if u.isPin then 1 else 0) + 1 := by
  rw [movesOf, movesOf, List.countP_cons, List.length_cons]
  omega

/-- With a timer that answers at once a list takes an edge for each of its steps S1 and S2 (R125). -/
theorem edgesFor_of_answersAtOnce {us : List MicroOp} {l : List Inputs} (h : AnswersAtOnce (movesOf us) l) :
    edgesFor false us l = some (movesOf us) := by
  induction us generalizing l with
  | nil => exact edgesFor_nil l
  | cons u us ih =>
    rw [movesOf_cons] at h ⊢
    obtain ⟨i, l, rfl, hrst, -, h⟩ := h.uncons
    rcases hu : u.isPin with _ | _
    · rw [hu] at h
      simp [edgesFor, hrst, hu, ih h]
    · rw [hu] at h
      obtain ⟨j, l, rfl, hrst', hdone, h⟩ := h.uncons
      simp [edgesFor, hrst, hrst', hu, hdone, ih h]

/-- Settles O54: the run of the expansion (`run_command`) ends with nothing left of it, keeps the command, and leaves the
trace and the status bits that `MicroRun.trace_flags` gives. -/
theorem commandRunsToCompletion : Obligations.CommandRunsToCompletion := by
  refine ⟨fun s w n hoffered => ?_, fun us l hlen hall => edgesFor_of_answersAtOnce ⟨hlen, hall⟩⟩
  obtain ⟨t, hrun, hmicro⟩ := run_command hoffered
  obtain ⟨tr, htrace, htraceOf, hnack, hack⟩ := hmicro.trace_flags
  have hp : Pending (wordExpansion s w ++ []) (s.acceptWord w) := by
    rw [List.append_nil]
    obtain ⟨-, hdly, -⟩ := hoffered
    exact pending_acceptWord hdly
  have hend := hmicro.pending hp
  have hsame := hmicro.sameCommand
  have hexp : expansion t.params t.regs = wordExpansion s w := by
    rw [hsame.expansion_eq, hmicro.params]
    rfl
  refine ⟨t.complete, tr, hrun, rfl, hend.dly, ?_, hsame.en, hsame.brt, hsame.op, hsame.a, hsame.b, htrace, htraceOf,
    ?_, hack⟩
  · rw [← hexp]
    exact hend.atEnd
  · exact hnack.trans (Bool.false_or _)

/-! ### The least duration (R123, R209) -/

/-- A trace of a list has one `Wait` for each pin micro-op. -/
theorem count_wait_of_isTraceOf {us : List MicroOp} {tr : List Event} (h : isTraceOf us tr = true) :
    tr.count .wait = us.countP MicroOp.isPin := by
  induction us, tr using isTraceOf.induct with
  | case1 => rfl
  | case2 u us u' tr ih =>
    simp only [isTraceOf, Bool.and_eq_true] at h
    obtain ⟨⟨hu, -⟩, hus⟩ := h
    simp [hu, ih hus]
  | case3 u us v tr ih =>
    simp only [isTraceOf, Bool.and_eq_true, Bool.not_eq_true'] at h
    obtain ⟨hu, hus⟩ := h
    simp [hu, ih hus]
  | case4 us tr => simp [isTraceOf] at h

/-- Settles O56: each pin micro-op has waited once. -/
theorem leastDuration : Obligations.LeastDuration := by
  intro prm us tr h
  rw [minTimeUs, count_wait_of_isTraceOf h]

/-! ### The steps one by one (R120, R121) -/

theorem decode_toInstr (u : MicroOp) : decode .microOp (encode u.toInstr) = .instr u.toInstr := by
  cases u <;> rfl

/-- A byte placed before the receiver is decoded by its place in the transaction (R65). -/
theorem decode_wire_toNat (ptr : Option Nat) (v : Byte) :
    decode (if ptr = none then .wireFirst else .wireLater) v.toNat = decodeWire ptr.isNone v := by
  cases ptr with
  | none => exact decode_wireFirst_toNat v
  | some p => exact decode_wireLater_toNat v

/-- While it waits for a command or for the timer the block has no step (R180). -/
theorem blockMove_eq_none {prm : Params} {r : Regs} {i : Inputs}
    (h : (r.busy = false ∧ i.cmdValid = false) ∨ (r.busy = true ∧ r.dly = true ∧ i.dlyDone = false)) :
    blockMove prm r i = none := by
  rcases h with ⟨hb, hv⟩ | ⟨hb, hd, hdone⟩
  · simp [blockMove, hb, hv]
  · simp [blockMove, hb, hd, hdone]

theorem receiverMove_run {rx : Receiver} {v : Byte} {vs : List Byte} {i : Instr} (href : rx.refused = false)
    (htodo : rx.todo = v :: vs) (hi : decodeWire rx.ptr.isNone v = .instr i) : receiverMove rx = .run i := by
  simp [receiverMove, href, htodo, hi]

/-- Settles O5: `step_accept`, `step_microOp`, and the receiver's move where the block has none. -/
theorem stepRunsDecodedInstruction : Obligations.StepRunsDecodedInstruction := by
  refine ⟨fun s i hrst hb hv hi => ?_, fun s u hrst hb hd hu => ?_, fun s v vs i hrst hwait href htodo hi => ?_⟩
  · rw [decode_command_toNat] at hi
    obtain rfl : decodeCommand s.now.cmdWord = i := by simpa using hi
    rw [step_accept hrst hb hv, exec_decodeCommand_eq]
  · exact ⟨(step_microOp hrst hb hd hu).trans (exec_microOp_eq u s).symm, decode_toInstr u⟩
  · rw [decode_wire_toNat] at hi
    have hmove : nextMove s = .run i := by
      simp [nextMove, hrst, blockMove_eq_none hwait, receiverMove_run href htodo hi]
    rw [step, hmove]
    rfl

/-- Settles O7, by `step_delayEnd` and `step_complete`. -/
theorem delayEndAndCompletion : Obligations.DelayEndAndCompletion :=
  ⟨fun _ hrst hb hd hdone => step_delayEnd hrst hb hd hdone, fun _ hrst hb hd hlen => step_complete hrst hb hd hlen⟩

/-! ### The micro-ops one by one (R111 to R118) -/

/-- A pin micro-op's step does what `PinEffect` says, if the write left `UPC` alone. -/
theorem pinEffect_pinStep {s : State} {r : Regs} (u : MicroOp) (h : r.upc = s.regs.upc) :
    PinEffect u r s (s.pinStep u r) :=
  ⟨by rw [State.pinStep_regs, h], rfl, rfl, rfl, rfl, rfl, rfl⟩

/-- Settles O20: each of the three writes its register and then takes the pin step. -/
theorem clockMicroOps : Obligations.ClockMicroOps := fun s =>
  ⟨⟨s.pinStep .clkLo { s.regs with clkO := false }, rfl, pinEffect_pinStep .clkLo rfl⟩,
    ⟨s.pinStep .clkHi { s.regs with clkO := true }, rfl, pinEffect_pinStep .clkHi rfl⟩,
    ⟨s.pinStep .clkOut { s.regs with clkOe := true }, rfl, pinEffect_pinStep .clkOut rfl⟩⟩

/-- Settles O21: each of the four writes its register and then takes the pin step. -/
theorem dataMicroOps : Obligations.DataMicroOps := fun s =>
  ⟨⟨s.pinStep .dioLo { s.regs with dioO := false }, rfl, pinEffect_pinStep .dioLo rfl⟩,
    ⟨s.pinStep .dioHi { s.regs with dioO := true }, rfl, pinEffect_pinStep .dioHi rfl⟩,
    ⟨s.pinStep .dioOut { s.regs with dioOe := true }, rfl, pinEffect_pinStep .dioOut rfl⟩,
    ⟨s.pinStep .dioIn { s.regs with dioOe := false }, rfl, pinEffect_pinStep .dioIn rfl⟩⟩

/-- With DATA driven the sample is its latch (R24). -/
theorem sample_driven {s : State} (h : s.regs.dioOe = true) : s.sample = s.regs.dioO := if_pos h

/-- With DATA released the sample is the receiver's 0 in the slots it answers, and else the environment's level (R24,
R65). -/
theorem sample_released {s : State} (h : s.regs.dioOe = false) :
    s.sample = if s.rx.answers && s.obs.inAckSlot then false else s.now.envDio := by
  have henv : s.sample = s.env.envDio := by simp [State.sample, dioLine, h]
  rw [henv, State.env]
  split <;> rfl

/-- Settles O22: the level is `State.sample`. -/
theorem sampleMicroOp : Obligations.SampleMicroOp := fun s => ⟨s.sample, sample_driven, sample_released, rfl⟩

end Sys2Proof.Machine
end

section
/-! SUPPORT. The family 41_framing_and_byte_tx.md, the lists: a byte's bits, the enable of CLOCK in a transaction, the
rising edges of CLOCK and the DATA writes under a high CLOCK, list by list (41_framing_and_byte_tx.md R130 to R140). -/

namespace Sys2Proof.Machine

/-! ### Where a transaction leaves the pins (R137, R208) -/

/-- Only `CLK_OUT` writes the enable of CLOCK (R115). -/
theorem write_clkOe_of_ne {u : MicroOp} (p : Pins) (h : u ≠ .clkOut) : (p.write u).clkOe = p.clkOe := by
  cases u
  case clkOut => exact absurd rfl h
  all_goals rfl

theorem pinsAfter_clkOe {us : List MicroOp} (p : Pins) (h : .clkOut ∉ us) : (pinsAfter us p).clkOe = p.clkOe := by
  induction us generalizing p with
  | nil => rfl
  | cons u us ih =>
    obtain ⟨hu, hus⟩ := not_or.mp (List.mem_cons.not.mp h)
    exact (ih (p.write u) hus).trans (write_clkOe_of_ne p (Ne.symm hu))

/-- Settles O51: `pinsAfter_txn`, and no front part of a transaction holds a `CLK_OUT`. -/
theorem transactionPins : Obligations.TransactionPins := fun bs p hbs =>
  ⟨pinsAfter_txn (.inl hbs), fun _ => pinsAfter_clkOe p fun hmem => clkOut_not_mem_txn bs (List.mem_of_mem_take hmem)⟩

/-- After bytes CLOCK is low, if there is one or if it was before (R134). -/
theorem pinsAfter_sendBytes_clkO {bs : List Byte} {p : Pins} (h : bs ≠ [] ∨ p.clkO = false) :
    (pinsAfter (bs.flatMap sendByte) p).clkO = false := by
  induction bs generalizing p with
  | nil => exact h.resolve_left (by simp)
  | cons b bs ih =>
    rw [List.flatMap_cons, pinsAfter_append]
    exact ih (.inr (by rw [pinsAfter_sendByte]))

/-! ### Delays and samples of each list (R139) -/

theorem countP_isPin_bitList (v : Bool) : (bitList v).countP MicroOp.isPin = 3 := by cases v <;> rfl

theorem count_dioRd_bitList (v : Bool) : (bitList v).count .dioRd = 0 := by cases v <;> rfl

theorem countP_isPin_sendByte (b : Byte) : (sendByte b).countP MicroOp.isPin = 29 := by
  have hslot : ackSlot.countP MicroOp.isPin = 5 := rfl
  simp only [sendByte, List.countP_append, countP_isPin_bitList, hslot]

theorem count_dioRd_sendByte (b : Byte) : (sendByte b).count .dioRd = 1 := by
  have hslot : ackSlot.count .dioRd = 1 := rfl
  simp only [sendByte, List.count_append, count_dioRd_bitList, hslot]

theorem countP_isPin_sendBytes (bs : List Byte) : (bs.flatMap sendByte).countP MicroOp.isPin = 29 * bs.length := by
  induction bs with
  | nil => rfl
  | cons b bs ih => rw [List.flatMap_cons, List.countP_append, countP_isPin_sendByte, ih, List.length_cons]; omega

theorem count_dioRd_sendBytes (bs : List Byte) : (bs.flatMap sendByte).count .dioRd = bs.length := by
  induction bs with
  | nil => rfl
  | cons b bs ih => rw [List.flatMap_cons, List.count_append, count_dioRd_sendByte, ih, List.length_cons]; omega

theorem countP_isPin_txn (bs : List Byte) : (txn bs).countP MicroOp.isPin = 4 + 29 * bs.length := by
  have hstart : startList.countP MicroOp.isPin = 1 := rfl
  have hstop : stopList.countP MicroOp.isPin = 3 := rfl
  rw [txn, List.countP_append, List.countP_append, countP_isPin_sendBytes, hstart, hstop]
  omega

theorem count_dioRd_txn (bs : List Byte) : (txn bs).count .dioRd = bs.length := by
  have hstart : startList.count .dioRd = 0 := rfl
  have hstop : stopList.count .dioRd = 0 := rfl
  rw [txn, List.count_append, List.count_append, count_dioRd_sendBytes, hstart, hstop, Nat.zero_add, Nat.add_zero]

/-! ### The rising edges of CLOCK (R139, R140) -/

/-- The times of a list's edges come first, then those of what follows, from where the list leaves the pins and the
count of delays. -/
theorem riseTimes_append (us vs : List MicroOp) (p : Pins) (n : Nat) :
    riseTimes (us ++ vs) p n =
      riseTimes us p n ++ riseTimes vs (pinsAfter us p) (n + us.countP MicroOp.isPin) := by
  induction us generalizing p n with
  | nil => rfl
  | cons u us ih =>
    have hafter : pinsAfter (u :: us) p = pinsAfter us (p.write u) := rfl
    simp only [List.cons_append, riseTimes, ih, hafter, List.countP_cons]
    split
    case isTrue hrise =>
      have hu : u.isPin = true := isPin_of_write_ne (p := p) fun e => by simp [e] at hrise
      simp [hu, Nat.add_comm, Nat.add_left_comm]
    case isFalse => cases u.isPin <;> simp [Nat.add_comm, Nat.add_left_comm]

theorem riseTimes_bitList (v : Bool) (p : Pins) (n : Nat) : riseTimes (bitList v) p n = [n + 3] := by
  cases v <;> simp [bitList, riseTimes, Pins.write, MicroOp.isPin]

theorem riseTimes_ackSlot (p : Pins) (n : Nat) : riseTimes ackSlot p n = [n + 3] := by
  simp [ackSlot, riseTimes, Pins.write, MicroOp.isPin]

/-- The nine edges of a byte sent after `n` delays, three delays apart. -/
def byteRises (n : Nat) : List Nat := (List.range 9).map fun i => n + 3 + 3 * i

theorem riseTimes_sendByte (b : Byte) (p : Pins) (n : Nat) : riseTimes (sendByte b) p n = byteRises n := by
  simp only [sendByte, riseTimes_append, riseTimes_bitList, riseTimes_ackSlot, List.countP_append,
    countP_isPin_bitList]
  rfl

theorem riseTimes_sendBytes (bs : List Byte) (p : Pins) (n : Nat) :
    riseTimes (bs.flatMap sendByte) p n = (List.range bs.length).flatMap fun j => byteRises (n + 29 * j) := by
  induction bs generalizing p n with
  | nil => rfl
  | cons b bs ih =>
    have hshift : ∀ j, n + 29 + 29 * j = n + 29 * (j + 1) := fun j => by omega
    rw [List.flatMap_cons, riseTimes_append, riseTimes_sendByte, countP_isPin_sendByte, ih, List.length_cons,
      List.range_succ_eq_map, List.flatMap_cons, List.flatMap_map]
    simp only [hshift, Nat.mul_zero, Nat.add_zero]

theorem riseTimes_stopList {p : Pins} (n : Nat) (h : p.clkO = false) : riseTimes stopList p n = [n + 2] := by
  simp [stopList, riseTimes, Pins.write, MicroOp.isPin, h]

/-- Settles O48: `START` takes one delay and makes no edge, then come the bytes and the edge of `STOP`. -/
theorem clockShape : Obligations.ClockShape := by
  intro bs hbs
  have hlow := pinsAfter_sendBytes_clkO (bs := bs) (p := pinsAfter startList idlePins) (.inl hbs)
  have hstart : riseTimes startList idlePins 0 = [] := rfl
  have hcount : startList.countP MicroOp.isPin = 1 := rfl
  have htime : ∀ j i, 0 + 1 + 29 * j + 3 + 3 * i = 29 * j + 4 + 3 * i := fun j i => by omega
  have hstop : 0 + (1 + 29 * bs.length) + 2 = 29 * bs.length + 3 := by omega
  rw [txn, riseTimes_append, riseTimes_append, hstart, List.countP_append, hcount, pinsAfter_append,
    riseTimes_sendBytes, countP_isPin_sendBytes, riseTimes_stopList _ hlow, hstop]
  simp only [byteRises, htime, List.nil_append]

theorem clockRises_eq_length_riseTimes (us : List MicroOp) (p : Pins) (n : Nat) :
    clockRises us p = (riseTimes us p n).length := by
  induction us generalizing p n with
  | nil => rfl
  | cons u us ih =>
    simp only [clockRises, riseTimes]
    split
    · rw [List.length_cons, ← ih, Nat.add_comm]
    · rw [← ih, Nat.zero_add]

theorem clockRises_txn {bs : List Byte} (h : bs ≠ []) : clockRises (txn bs) idlePins = 9 * bs.length + 1 := by
  rw [clockRises_eq_length_riseTimes _ _ 0, clockShape bs h]
  simp [List.length_flatMap, Nat.mul_comm]

/-- Settles O47: the counts of the lists, and the edges as the length of their times (`clockShape`). -/
theorem transactionCounts : Obligations.TransactionCounts :=
  ⟨⟨rfl, rfl⟩, fun v => ⟨countP_isPin_bitList v, count_dioRd_bitList v⟩, ⟨rfl, rfl⟩,
    fun b => ⟨countP_isPin_sendByte b, count_dioRd_sendByte b⟩, ⟨rfl, rfl⟩,
    fun bs => ⟨length_txn bs, countP_isPin_txn bs, count_dioRd_txn bs, clockRises_txn⟩⟩

/-! ### DATA under a high CLOCK (R138) -/

theorem dataWritesUnderHighClock_append (us vs : List MicroOp) (p : Pins) :
    dataWritesUnderHighClock (us ++ vs) p =
      dataWritesUnderHighClock us p ++ dataWritesUnderHighClock vs (pinsAfter us p) := by
  induction us generalizing p with
  | nil => rfl
  | cons u us ih =>
    have hafter : pinsAfter (u :: us) p = pinsAfter us (p.write u) := rfl
    simp only [List.cons_append, dataWritesUnderHighClock, ih, hafter]
    split <;> rfl

theorem dataMovesUnderHighClock_append (us vs : List MicroOp) (p : Pins) :
    dataMovesUnderHighClock (us ++ vs) p =
      dataMovesUnderHighClock us p ++ dataMovesUnderHighClock vs (pinsAfter us p) := by
  induction us generalizing p with
  | nil => rfl
  | cons u us ih =>
    have hafter : pinsAfter (u :: us) p = pinsAfter us (p.write u) := rfl
    simp only [List.cons_append, dataMovesUnderHighClock, ih, hafter]
    split <;> rfl

/-- A micro-op that does not write DATA leaves its latch and its enable. -/
theorem write_data_of_not_writesData {u : MicroOp} (p : Pins) (h : writesData u = false) :
    (p.write u).dioO = p.dioO ∧ (p.write u).dioOe = p.dioOe := by
  cases u
  case clkLo | clkHi | clkOut | dioRd => exact ⟨rfl, rfl⟩
  all_goals cases h

/-- Where DATA is not written it does not move. -/
theorem dataMoves_of_dataWrites_nil {us : List MicroOp} {p : Pins} (h : dataWritesUnderHighClock us p = []) :
    dataMovesUnderHighClock us p = [] := by
  induction us generalizing p with
  | nil => rfl
  | cons u us ih =>
    unfold dataWritesUnderHighClock at h
    split at h
    · cases h
    · rename_i hwrite
      rw [dataMovesUnderHighClock, if_neg, ih h]
      rintro ⟨hclk, hmove⟩
      have hdata := write_data_of_not_writesData p (u := u) (by simpa [hclk] using hwrite)
      simp [hdata] at hmove

theorem dataWrites_bitList (v : Bool) (p : Pins) : dataWritesUnderHighClock (bitList v) p = [] := by
  cases v <;> simp [bitList, dataWritesUnderHighClock, Pins.write, writesData]

theorem dataWrites_ackSlot (p : Pins) : dataWritesUnderHighClock ackSlot p = [] := by
  simp [ackSlot, dataWritesUnderHighClock, Pins.write, writesData]

/-- Within a byte DATA is written under a low CLOCK only (R138). -/
theorem dataWrites_sendByte (b : Byte) (p : Pins) : dataWritesUnderHighClock (sendByte b) p = [] := by
  simp only [sendByte, dataWritesUnderHighClock_append, dataWrites_bitList, dataWrites_ackSlot, List.append_nil]

theorem dataWrites_sendBytes (bs : List Byte) (p : Pins) : dataWritesUnderHighClock (bs.flatMap sendByte) p = [] := by
  induction bs generalizing p with
  | nil => rfl
  | cons b bs ih => rw [List.flatMap_cons, dataWritesUnderHighClock_append, dataWrites_sendByte, ih, List.append_nil]

theorem dataWrites_stopList {p : Pins} (h : p.clkO = false) : dataWritesUnderHighClock stopList p = [.dioHi] := by
  simp [stopList, dataWritesUnderHighClock, Pins.write, writesData, h]

theorem dataMoves_stopList {p : Pins} (h : p.clkO = false) : dataMovesUnderHighClock stopList p = [.dioHi] := by
  simp [stopList, dataMovesUnderHighClock, Pins.write, h]

/-- Settles O50: no byte writes DATA under a high CLOCK, and `STOP` begins under a low one. -/
theorem framingEdges : Obligations.FramingEdges := by
  intro bs hbs
  have hlow := pinsAfter_sendBytes_clkO (bs := bs) (p := pinsAfter startList idlePins) (.inl hbs)
  have hbytes := dataWrites_sendBytes bs (pinsAfter startList idlePins)
  refine ⟨?_, ?_, rfl, ?_⟩
  · rw [txn, dataMovesUnderHighClock_append, dataMovesUnderHighClock_append, dataMoves_of_dataWrites_nil hbytes,
      pinsAfter_append, dataMoves_stopList hlow]
    rfl
  · rw [txn, dataWritesUnderHighClock_append, dataWritesUnderHighClock_append, hbytes, pinsAfter_append,
      dataWrites_stopList hlow]
    rfl
  · rw [txn, List.getLast?_append]
    rfl

end Sys2Proof.Machine
end

section
/-! SUPPORT. The family 41_framing_and_byte_tx.md, runs: what the observer sees of a run of micro-ops, list by list, and
what the receiver takes (20_memory.md R64, R65, R211; 41_framing_and_byte_tx.md R137, R141). -/

namespace Sys2Proof.Machine

/-! ### What a run does outside the block (R64, R65, R211) -/

/-- While the timer runs, a receiver with nothing placed before it does nothing. -/
theorem waiting_idle {rx rx' : Receiver} (h : Relation.ReflTransGen ReceiverTakes rx rx') (htodo : rx.todo = []) :
    rx' = rx := by
  induction h with
  | refl => rfl
  | tail _ hlast ih => rw [receiver_idle hlast (by rw [ih, htodo]), ih]

/-- From `s` to `t` the receiver takes exactly the transactions that the observer has seen close. -/
def Delivered (s t : State) : Prop :=
  ∃ txs, t.obs.out = s.obs.out ++ txs ∧ t.rx = txs.foldl Receiver.takeTxn s.rx ∧ t.rx.todo = []

theorem Delivered.trans {s s' t : State} (h : Delivered s s') (h' : Delivered s' t) : Delivered s t := by
  obtain ⟨txs, hout, hrx, -⟩ := h
  obtain ⟨txs', hout', hrx', htodo'⟩ := h'
  exact ⟨txs ++ txs', by rw [hout', hout, List.append_assoc], by rw [hrx', hrx, List.foldl_append], htodo'⟩

theorem MicroOpDone.delivered {u : MicroOp} {s t : State} (h : MicroOpDone u s t) (htodo : s.rx.todo = []) :
    Delivered s t := by
  have hrx := waiting_idle h.rx
  cases takenAtClose_microStep s u with
  | stays out rx =>
    have htodo' : (s.microStep u).rx.todo = [] := by rw [rx, htodo]
    exact ⟨[], by rw [h.obs, out, List.append_nil], (hrx htodo').trans rx, by rw [hrx htodo', htodo']⟩
  | closes bs out rx =>
    have htodo' : (s.microStep u).rx.todo = [] := by rw [rx, takeTxn_todo bs htodo]
    exact ⟨[bs], by rw [h.obs, out], (hrx htodo').trans rx, by rw [hrx htodo', htodo']⟩

theorem MicroRun.delivered {us : List MicroOp} {s t : State} (h : MicroRun us s t) (htodo : s.rx.todo = []) :
    Delivered s t := by
  induction h with
  | nil s => exact ⟨[], (List.append_nil _).symm, rfl, htodo⟩
  | cons first _ ih =>
    have hfirst := first.delivered htodo
    have ⟨_, _, _, htodo'⟩ := hfirst
    exact hfirst.trans (ih htodo')

/-- What the receiver has taken, where it is known what the observer has seen. -/
theorem Delivered.rx_of_out {s t : State} {txs : List (List Byte)} (h : Delivered s t)
    (hout : t.obs.out = s.obs.out ++ txs) : t.rx = txs.foldl Receiver.takeTxn s.rx := by
  obtain ⟨txs', hout', hrx, -⟩ := h
  rw [hrx, List.append_cancel_left (hout'.symm.trans hout)]

/-! ### What the observer sees of a micro-op (R64) -/

theorem MicroOpDone.pinsOf_eq {u : MicroOp} {s t : State} (h : MicroOpDone u s t) :
    pinsOf t.regs = (pinsOf s.regs).write u := by
  rw [h.regs, ← pinsOf_microStep]
  rfl

/-- The observer sees the lines with the pins before and after, at one sample of the environment. -/
theorem MicroOpDone.obs_see {u : MicroOp} {s t : State} (h : MicroOpDone u s t) (hu : u.isPin = true) :
    t.obs = s.obs.see (s.lines s.regs) (s.lines t.regs) := by
  rw [h.obs, h.regs, microStep_pin s hu]
  rfl

/-- The pins are `p`, the last pair of lines seen shows them, and else the observer is `o`. -/
structure OnWire (p : Pins) (o : Observer) (s : State) : Prop where
  pins : pinsOf s.regs = p
  seen : ∃ l, p.Shows l ∧ s.obs = { o with prev := some l }

/-- A pin micro-op, by what the observer makes of the lines that show the pins before and after. -/
theorem onWire_pin {p : Pins} {o o' : Observer} {u : MicroOp} (hu : u.isPin = true)
    (h : ∀ l before after, p.Shows l → (p.write u).Shows after →
      Observer.see { o with prev := some l } before after = { o' with prev := some after }) :
    Ensures (OnWire p o) [u] (OnWire (p.write u) o') := by
  refine .single fun s t ⟨hpins, l, hl, hobs⟩ ht => ?_
  have hpins' : pinsOf t.regs = p.write u := by rw [ht.pinsOf_eq, hpins]
  have hafter : (p.write u).Shows (s.lines t.regs) := hpins' ▸ pinsOf_shows_lines s t.regs
  exact ⟨hpins', _, hafter, by rw [ht.obs_see hu, hobs, h l _ _ hl hafter]⟩

/-- A sample is no event for the observer. -/
theorem onWire_dioRd (p : Pins) (o : Observer) : Ensures (OnWire p o) [.dioRd] (OnWire p o) :=
  .single fun _ _ hs ht => ⟨ht.pinsOf_eq.trans hs.pins, by rw [ht.obs]; exact hs.seen⟩

/-- A micro-op that leaves CLOCK driven low. -/
theorem onWire_clkLow {p : Pins} (o : Observer) {u : MicroOp} (hu : u.isPin = true) (hoe : (p.write u).clkOe = true)
    (hlow : (p.write u).clkO = false) : Ensures (OnWire p o) [u] (OnWire (p.write u) o) :=
  onWire_pin hu fun _ _ _ _ hafter => see_clkLow ((hafter.1 hoe).trans hlow)

/-- The observer counts, whatever pair it saw last. -/
theorem risingEdge_prev (o : Observer) (l : Option Lines) (d : Bool) :
    Observer.risingEdge { o with prev := l } d = { o.risingEdge d with prev := l } := by
  unfold Observer.risingEdge
  split
  · rfl
  · split <;> rfl

/-- A rising edge of a driven CLOCK in a transaction, DATA being at its latch if it is driven. -/
theorem onWire_clkHi {p : Pins} {o o' : Observer} (htxn : o.inTxn = true) (hoe : p.clkOe = true) (hlow : p.clkO = false)
    (h : ∀ d, (p.dioOe = true → d = p.dioO) → o.risingEdge d = o') :
    Ensures (OnWire p o) [.clkHi] (OnWire (p.write .clkHi) o') := by
  refine onWire_pin rfl fun l before after hl hafter => ?_
  have hrise := see_rise (o := { o with prev := some l }) (before := before) htxn rfl ((hl.1 hoe).trans hlow)
    (hafter.1 hoe)
  rw [hrise, risingEdge_prev, h after.dio hafter.2]

/-! ### What the observer sees of a byte (R132 to R134, R141) -/

/-- Both lines driven, CLOCK at `c` and DATA at `d`. -/
def drivenPins (c d : Bool) : Pins := { clkO := c, clkOe := true, dioO := d, dioOe := true }

/-- Both lines are driven, and the observer is `o`. -/
def Driven (o : Observer) (s : State) : Prop := ∃ c d, OnWire (drivenPins c d) o s

/-- As `Driven`, with CLOCK low, as between two bytes. -/
def DrivenLow (o : Observer) (s : State) : Prop := ∃ d, OnWire (drivenPins false d) o s

/-- The observer in an open transaction: `bytes` and then fewer than eight `bits` have been sent, after the closed
transactions `out`. -/
def sending (out : List (List Byte)) (bytes : List Byte) (bits : List Bool) : Observer :=
  { prev := none, inTxn := true, bits := bits, k := 9 * bytes.length + bits.length, bytes := bytes, out := out }

/-- The observer after the eighth bit of a byte, before the ninth edge. -/
def sendingAck (out : List (List Byte)) (bytes : List Byte) (b : Byte) : Observer :=
  { prev := none, inTxn := true, bits := [], k := 9 * bytes.length + 8, bytes := bytes ++ [b], out := out }

theorem risingEdge_sending {out : List (List Byte)} {bytes : List Byte} {bits : List Bool} (v : Bool)
    (h : bits.length < 7) : (sending out bytes bits).risingEdge v = sending out bytes (bits ++ [v]) := by
  have hninth : ¬(bits.length + 1) % 9 = 0 := by omega
  have heighth : ¬bits.length + 1 = 8 := by omega
  simp [sending, Observer.risingEdge, hninth, heighth, Nat.add_assoc]

theorem risingEdge_eighth {out : List (List Byte)} {bytes : List Byte} {bits : List Bool} (v : Bool)
    (h : bits.length = 7) :
    (sending out bytes bits).risingEdge v = sendingAck out bytes (bitsToByte (bits ++ [v])) := by
  have hninth : ¬(9 * bytes.length + 7 + 1) % 9 = 0 := by omega
  simp [sending, sendingAck, Observer.risingEdge, h, hninth]

theorem risingEdge_ninth (out : List (List Byte)) (bytes : List Byte) (b : Byte) (v : Bool) :
    (sendingAck out bytes b).risingEdge v = sending out (bytes ++ [b]) [] := by
  have hninth : (9 * bytes.length + 8 + 1) % 9 = 0 := by omega
  simp [sending, sendingAck, Observer.risingEdge, hninth, Nat.mul_add]

/-- A bit is a rising edge with DATA at its level. -/
theorem driven_bitList {o : Observer} (htxn : o.inTxn = true) (v : Bool) :
    Ensures (Driven o) (bitList v) (Driven (o.risingEdge v)) := by
  rintro s t ⟨c, d, hs⟩ hrun
  have hclk : Ensures (OnWire (drivenPins c d) o) [.clkLo] (OnWire (drivenPins false d) o) := onWire_clkLow o rfl rfl rfl
  have hdata : Ensures (OnWire (drivenPins false d) o) [if v then .dioHi else .dioLo]
      (OnWire (drivenPins false v) o) := by
    cases v <;> exact onWire_clkLow o rfl rfl rfl
  have hrise : Ensures (OnWire (drivenPins false v) o) [.clkHi] (OnWire (drivenPins true v) (o.risingEdge v)) :=
    onWire_clkHi htxn rfl rfl fun d' hd' => by rw [hd' rfl]; rfl
  exact ⟨true, v, hclk.cons (hdata.cons hrise) s t hs hrun⟩

theorem driven_bitLists {out : List (List Byte)} {bytes : List Byte} {bits vs : List Bool}
    (h : bits.length + vs.length ≤ 7) :
    Ensures (Driven (sending out bytes bits)) (vs.flatMap bitList) (Driven (sending out bytes (bits ++ vs))) := by
  induction vs generalizing bits with
  | nil => rw [List.append_nil]; exact .nil _
  | cons v vs ih =>
    rw [List.length_cons] at h
    have hbit := driven_bitList (o := sending out bytes bits) rfl v
    rw [risingEdge_sending v (by omega)] at hbit
    have hbits := ih (bits := bits ++ [v]) (by rw [List.length_append, List.length_singleton]; omega)
    rw [List.append_assoc, List.singleton_append] at hbits
    exact hbit.append hbits

/-- The acknowledgement slot: one edge, the byte's ninth, whatever the level of released DATA. -/
theorem driven_ackSlot (out : List (List Byte)) (bytes : List Byte) (b : Byte) :
    Ensures (Driven (sendingAck out bytes b)) ackSlot (DrivenLow (sending out (bytes ++ [b]) [])) := by
  rintro s t ⟨c, d, hs⟩ hrun
  have hslot : Ensures (OnWire (drivenPins c d) (sendingAck out bytes b)) ackSlot
      (OnWire (drivenPins false d) (sending out (bytes ++ [b]) [])) :=
    .cons (onWire_clkLow _ rfl rfl rfl) <| .cons (onWire_clkLow _ rfl rfl rfl) <|
      .cons (onWire_clkHi rfl rfl rfl fun v _ => risingEdge_ninth out bytes b v) <| .cons (onWire_dioRd _ _) <|
      .cons (onWire_clkLow _ rfl rfl rfl) <| onWire_clkLow _ rfl rfl rfl
  exact ⟨d, hslot s t hs hrun⟩

/-- The bits 0 to 6 of a byte, in the order in which they are sent (R54). -/
def lowBits (b : Byte) : List Bool := (List.range 7).map b.getLsbD

theorem sendByte_eq (b : Byte) :
    sendByte b = (lowBits b).flatMap bitList ++ (bitList (b.getLsbD 7) ++ ackSlot) := by
  simp [sendByte, lowBits, List.range_succ]

theorem bitsToByte_bits (b : Byte) : bitsToByte (lowBits b ++ [b.getLsbD 7]) = b := by
  revert b
  decide

/-- A byte is seen as that byte (R141). -/
theorem driven_sendByte (out : List (List Byte)) (bytes : List Byte) (b : Byte) :
    Ensures (Driven (sending out bytes [])) (sendByte b) (DrivenLow (sending out (bytes ++ [b]) [])) := by
  have hlow : Ensures _ _ (Driven (sending out bytes (lowBits b))) :=
    driven_bitLists (bits := []) (vs := lowBits b) (by simp [lowBits])
  have hlast := driven_bitList (o := sending out bytes (lowBits b)) rfl (b.getLsbD 7)
  rw [risingEdge_eighth _ (by simp [lowBits]), bitsToByte_bits] at hlast
  rw [sendByte_eq]
  exact hlow.append (hlast.append (driven_ackSlot out bytes b))

theorem driven_sendBytes (out : List (List Byte)) (bytes : List Byte) (b : Byte) (bs : List Byte) :
    Ensures (Driven (sending out bytes [])) ((b :: bs).flatMap sendByte)
      (DrivenLow (sending out (bytes ++ b :: bs) [])) := by
  induction bs generalizing bytes b with
  | nil => rw [List.flatMap_singleton]; exact driven_sendByte out bytes b
  | cons c bs ih =>
    have hrest := ih (bytes ++ [b]) c
    rw [List.append_assoc, List.singleton_append] at hrest
    rw [List.flatMap_cons]
    exact (driven_sendByte out bytes b).append fun s t ⟨d, hs⟩ => hrest s t ⟨false, d, hs⟩

/-! ### A transaction from the idle bus (R130, R131, R137, R141) -/

/-- Both lines are driven high, the observer saw no less and has no open transaction, and `out` is what it has seen. -/
structure IdleBus (out : List (List Byte)) (s : State) : Prop where
  pins : pinsOf s.regs = idlePins
  idle : ObserverIdle s.obs
  out : s.obs.out = out

theorem start_of_idle {o : Observer} (h : ObserverIdle o) :
    o.start { clk := true, dio := true } = { clk := true, dio := true } := by
  rcases hprev : o.prev with _ | l
  · simp [Observer.start, hprev]
  · simp [Observer.start, hprev, h.2 l hprev]

/-- A stop condition in an open transaction closes it. -/
theorem see_stop {o : Observer} {before : Lines} (htxn : o.inTxn = true)
    (h : o.start before = { clk := true, dio := false }) :
    o.see before { clk := true, dio := true } =
      { o with inTxn := false, out := o.out ++ [o.bytes], prev := some { clk := true, dio := true } } := by
  simp [Observer.see, Observer.react, h, htxn, isStart, isStop]

/-- Two equal pairs are no event. -/
theorem see_same {o : Observer} {before l : Lines} (h : o.start before = l) :
    o.see before l = { o with prev := some l } := by
  obtain ⟨c, d⟩ := l
  cases c <;> cases d <;> simp [Observer.see, Observer.react, h, isStart, isStop]

theorem lines_of_pins {s : State} {r : Regs} {c d : Bool} (h : pinsOf r = drivenPins c d) :
    s.lines r = { clk := c, dio := d } :=
  (h ▸ pinsOf_shows_lines s r : (drivenPins c d).Shows _).eq rfl rfl

theorem idleBus_startList (out : List (List Byte)) : Ensures (IdleBus out) startList (Driven (sending out [] [])) := by
  refine .single fun s t ⟨hpins, hidle, hout⟩ ht => ?_
  have hpins' : pinsOf t.regs = drivenPins true false := by rw [ht.pinsOf_eq, hpins]; rfl
  refine ⟨true, false, hpins', { clk := true, dio := false }, by simp [Pins.Shows, drivenPins], ?_⟩
  rw [ht.obs_see rfl, lines_of_pins hpins, lines_of_pins hpins', see_start (start_of_idle hidle), hout]
  rfl

theorem drivenLow_stopList (out : List (List Byte)) (bytes : List Byte) :
    Ensures (DrivenLow (sending out bytes [])) stopList (IdleBus (out ++ [bytes])) := by
  rintro s t ⟨d, hs⟩ hrun
  have hdata : Ensures (OnWire (drivenPins false d) (sending out bytes [])) [.dioLo]
      (OnWire (drivenPins false false) (sending out bytes [])) := onWire_clkLow _ rfl rfl rfl
  have hrise : Ensures (OnWire (drivenPins false false) (sending out bytes [])) [.clkHi]
      (OnWire (drivenPins true false) (sending out bytes [false])) :=
    onWire_clkHi rfl rfl rfl fun d' hd' => by rw [hd' rfl]; exact risingEdge_sending false (by simp)
  have hclose : Ensures (OnWire (drivenPins true false) (sending out bytes [false])) [.dioHi]
      (IdleBus (out ++ [bytes])) := by
    refine .single fun s t ⟨hpins, l, hl, hobs⟩ ht => ?_
    obtain rfl : l = { clk := true, dio := false } := hl.eq rfl rfl
    have hpins' : pinsOf t.regs = idlePins := by rw [ht.pinsOf_eq, hpins]; rfl
    have hobs' := ht.obs_see rfl
    rw [lines_of_pins hpins', hobs, see_stop rfl rfl] at hobs'
    refine ⟨hpins', ?_, by rw [hobs']; rfl⟩
    rw [hobs']
    exact ⟨rfl, fun l hl => (Option.some.inj hl).symm⟩
  exact hdata.cons (hrise.cons hclose) s t hs hrun

theorem idleBus_txn {bs : List Byte} (h : bs ≠ []) (out : List (List Byte)) :
    Ensures (IdleBus out) (txn bs) (IdleBus (out ++ [bs])) := by
  obtain ⟨b, bs, rfl⟩ := List.exists_cons_of_ne_nil h
  exact ((idleBus_startList out).append (driven_sendBytes out [] b bs)).append (drivenLow_stopList out _)

/-- Settles O53: the run of the transaction (`run_microOps`) from the idle bus to the idle bus (`idleBus_txn`), of which
the receiver takes what the observer sees (`MicroRun.delivered`). -/
theorem transactionSeenByObserver : Obligations.TransactionSeenByObserver := by
  intro bs rest n s hbs hbusy hdly hpins hidle htodo hupc hrest hn
  obtain ⟨t, hrun, hmicro, hp, -⟩ := run_microOps ⟨hbusy, hdly, hupc, hrest⟩ hn
  have hbus := idleBus_txn hbs s.obs.out s t ⟨hpins, hidle, rfl⟩ hmicro
  exact ⟨t, hrun, hbus.out, hbus.idle, (hmicro.delivered htodo).rx_of_out hbus.out, hbus.pins, hp.busy, hp.dly, hp.rest⟩

/-! ### `LINES_INIT` (R154, R202, R203) -/

/-- On the idle bus a micro-op that leaves both lines driven high is nothing to the observer. -/
theorem idleBus_of_write_eq {u : MicroOp} (hu : u.isPin = true) (h : idlePins.write u = idlePins)
    (out : List (List Byte)) : Ensures (IdleBus out) [u] (IdleBus out) := by
  refine .single fun s t ⟨hpins, hidle, hout⟩ ht => ?_
  have hpins' : pinsOf t.regs = idlePins := by rw [ht.pinsOf_eq, hpins, h]
  have hobs := ht.obs_see hu
  rw [lines_of_pins hpins, lines_of_pins hpins', see_same (start_of_idle hidle)] at hobs
  refine ⟨hpins', ?_, by rw [hobs, hout]⟩
  rw [hobs]
  exact ⟨hidle.1, fun l hl => (Option.some.inj hl).symm⟩

theorem idleBus_linesInit (out : List (List Byte)) : Ensures (IdleBus out) linesInit (IdleBus out) :=
  (idleBus_of_write_eq rfl rfl out).cons <| (idleBus_of_write_eq rfl rfl out).cons <|
    (idleBus_of_write_eq rfl rfl out).cons (idleBus_of_write_eq rfl rfl out)

/-- Undriven DATA is 1 at every edge that the list takes (R203). -/
def PulledUpFor (us : List MicroOp) (l : List Inputs) : Prop :=
  ∃ m, edgesFor false us l = some m ∧ ∀ i ∈ l.take m, i.envDio = true

/-- A list that has the edges it takes has those of its front part. -/
theorem edgesFor_append_left {d : Bool} {us vs : List MicroOp} {l : List Inputs} {n : Nat}
    (h : edgesFor d (us ++ vs) l = some n) : ∃ m, edgesFor d us l = some m := by
  induction l generalizing d us n with
  | nil =>
    rcases d with _ | _
    · rcases us with _ | ⟨u, us⟩
      · exact ⟨0, rfl⟩
      · simp [edgesFor] at h
    · simp [edgesFor] at h
  | cons i l ih =>
    rcases d with _ | _
    · rcases us with _ | ⟨u, us⟩
      · exact ⟨0, rfl⟩
      · simp only [List.cons_append, edgesFor, Option.ite_none_left_eq_some, Option.map_eq_some_iff] at h ⊢
        obtain ⟨hrst, n', hn', -⟩ := h
        obtain ⟨m, hm⟩ := ih hn'
        exact ⟨m + 1, hrst, m, hm, rfl⟩
    · simp only [edgesFor, Option.ite_none_left_eq_some, Option.map_eq_some_iff] at h ⊢
      obtain ⟨hrst, n', hn', -⟩ := h
      obtain ⟨m, hm⟩ := ih hn'
      exact ⟨m + 1, hrst, m, hm, rfl⟩

theorem PulledUpFor.now {u : MicroOp} {us : List MicroOp} {s : State} (h : PulledUpFor (u :: us) s.script) :
    s.now.envDio = true := by
  obtain ⟨m, hm, hall⟩ := h
  rcases hl : s.script with _ | ⟨i, l⟩
  · simp [hl, edgesFor] at hm
  · simp only [hl, edgesFor, Option.ite_none_left_eq_some, Option.map_eq_some_iff] at hm
    obtain ⟨-, m', -, rfl⟩ := hm
    rw [now_of_script hl]
    exact hall i (by simp [hl])

theorem PulledUpFor.tail {u : MicroOp} {us : List MicroOp} {s t : State} (h : PulledUpFor (u :: us) s.script)
    (ht : MicroOpDone u s t) : PulledUpFor us t.script := by
  obtain ⟨n, hn, hall⟩ := h
  obtain ⟨m, k, rfl, hm, hk⟩ := edgesFor_cons hn
  obtain ⟨m', hm', hscript⟩ := ht.edges
  obtain rfl : m' = m := Option.some.inj (hm'.symm.trans hm)
  refine ⟨k, hscript ▸ hk, fun i hi => hall i ?_⟩
  rw [List.take_add]
  exact List.mem_append_right _ (hscript ▸ hi)

/-- With no open transaction, so outside the slots, pulled up DATA is low only where it is driven low. -/
theorem lines_dio_pulledUp {s : State} (htxn : s.obs.inTxn = false) (hpull : s.now.envDio = true) (r : Regs) :
    (s.lines r).dio = (!r.dioOe || r.dioO) := by
  have henv : s.env = s.now := env_free (.inr (by simp [Observer.inAckSlot, htxn]))
  cases hoe : r.dioOe <;> simp [State.lines, dioLine, henv, hpull, hoe]

/-- An event that is no start condition is nothing to an observer without an open transaction. -/
theorem see_closed {o : Observer} {before after : Lines} (htxn : o.inTxn = false)
    (h : (o.start before).dio = true → after.dio = true) : o.see before after = { o with prev := some after } := by
  have hstart : isStart (o.start before) after = false := by
    cases hdio : (o.start before).dio
    · simp [isStart, hdio]
    · simp [isStart, h hdio]
  obtain ⟨prev, inTxn, bits, k, bytes, out⟩ := o
  obtain rfl : inTxn = false := htxn
  simp [Observer.see, Observer.react, hstart]

/-- From the pins `p` to the pins `q` DATA is not newly driven low: its latch is 1 after, or DATA is left alone. -/
def NotLowered (p q : Pins) : Prop := q.dioO = true ∨ (q.dioO = p.dioO ∧ q.dioOe = p.dioOe)

/-- Where DATA is pulled up, a micro-op that does not newly drive it low is nothing to an observer at rest. -/
theorem MicroOpDone.obs_of_atRest {u : MicroOp} {s t : State} (h : MicroOpDone u s t) (hu : u.isPin = true)
    (hrest : ObserverAtRest s.obs s.regs) (hpull : s.now.envDio = true)
    (hdata : NotLowered (pinsOf s.regs) (pinsOf t.regs)) :
    t.obs = { s.obs with prev := some (s.lines t.regs) } := by
  obtain ⟨htxn, hprev⟩ := hrest
  rw [h.obs_see hu]
  refine see_closed htxn fun hstart => ?_
  rw [lines_dio_pulledUp htxn hpull]
  rcases hdata with hset | ⟨hlatch, henable⟩
  · rw [show t.regs.dioO = true from hset, Bool.or_true]
  · rw [show t.regs.dioO = s.regs.dioO from hlatch, show t.regs.dioOe = s.regs.dioOe from henable]
    rcases hlast : s.obs.prev with _ | l
    · rw [Observer.start, hlast] at hstart
      rw [← lines_dio_pulledUp htxn hpull]
      exact hstart
    · rw [Observer.start, hlast] at hstart
      have hhigh := hprev l hlast hstart
      cases hoe : s.regs.dioOe <;> simp [hhigh, hoe]

/-- `us` is what is left of `LINES_INIT`: the pins are `p`, the observer is at rest and has seen `out`, and undriven DATA
is pulled up (R202, R203). -/
structure Booting (us : List MicroOp) (p : Pins) (out : List (List Byte)) (s : State) : Prop where
  pins : pinsOf s.regs = p
  atRest : ObserverAtRest s.obs s.regs
  out : s.obs.out = out
  pulledUp : PulledUpFor us s.script

theorem booting_microOp {u : MicroOp} {us : List MicroOp} {p : Pins} (hu : u.isPin = true)
    (hdata : NotLowered p (p.write u)) (out : List (List Byte)) :
    Ensures (Booting (u :: us) p out) [u] (Booting us (p.write u) out) := by
  refine .single fun s t hs ht => ?_
  have hpins : pinsOf t.regs = p.write u := by rw [ht.pinsOf_eq, hs.pins]
  have hobs := ht.obs_of_atRest hu hs.atRest hs.pulledUp.now (by rwa [hs.pins, hpins])
  refine ⟨hpins, ?_, by rw [hobs, hs.out], hs.pulledUp.tail ht⟩
  rw [hobs]
  refine ⟨hs.atRest.1, fun l hl hdio hoe => ?_⟩
  obtain rfl : s.lines t.regs = l := Option.some.inj hl
  exact ((pinsOf_shows_lines s t.regs).2 hoe).symm.trans hdio

theorem booting_last {u : MicroOp} {p : Pins} (hu : u.isPin = true) (h : p.write u = idlePins)
    (out : List (List Byte)) : Ensures (Booting [u] p out) [u] (IdleBus out) := by
  refine .single fun s t hs ht => ?_
  have hpins : pinsOf t.regs = idlePins := by rw [ht.pinsOf_eq, hs.pins, h]
  have hobs := ht.obs_of_atRest hu hs.atRest hs.pulledUp.now (by rw [hpins]; exact .inl rfl)
  rw [lines_of_pins hpins] at hobs
  refine ⟨hpins, ?_, by rw [hobs, hs.out]⟩
  rw [hobs]
  exact ⟨hs.atRest.1, fun l hl => (Option.some.inj hl).symm⟩

/-- From any pins with DATA pulled up, `LINES_INIT` makes the bus idle, and nothing is seen on the way. -/
theorem booting_linesInit (p : Pins) (out : List (List Byte)) :
    Ensures (Booting linesInit p out) linesInit (IdleBus out) :=
  .cons (booting_microOp rfl (.inr ⟨rfl, rfl⟩) out) <| .cons (booting_microOp rfl (.inr ⟨rfl, rfl⟩) out) <|
    .cons (booting_microOp rfl (.inl rfl) out) (booting_last rfl rfl out)

/-! ### A command end to end (R95, R125, R141) -/

theorem idleBus_txns {txs : List (List Byte)} (h : ∀ bs ∈ txs, bs ≠ []) (out : List (List Byte)) :
    Ensures (IdleBus out) (txs.flatMap txn) (IdleBus (out ++ txs)) := by
  induction txs generalizing out with
  | nil => rw [List.append_nil]; exact .nil _
  | cons bs txs ih =>
    obtain ⟨hbs, htxs⟩ := List.forall_mem_cons.mp h
    have hrest := ih htxs (out ++ [bs])
    rw [List.append_assoc, List.singleton_append] at hrest
    exact (idleBus_txn hbs out).append hrest

theorem ne_nil_of_wireShape {en : Bool} {brt : Byte} {bs : List Byte} (h : WireShape en brt bs) : bs ≠ [] := by
  rcases h with rfl | rfl | ⟨p, v, rfl⟩ <;> exact List.cons_ne_nil _ _

/-- The transactions of a word accepted in `s` (R95, R121). -/
def wordWire (s : State) (w : CommandWord) : List (List Byte) :=
  wireOf s.params (opField w) (aField w) (bField w) (acceptedEn w s.regs.en) (acceptedBrt w s.regs.brt)

theorem idleBus_wordWire (s : State) (w : CommandWord) (out : List (List Byte)) :
    Ensures (IdleBus out) ((wordWire s w).flatMap txn) (IdleBus (out ++ wordWire s w)) :=
  idleBus_txns (fun _ hbs => ne_nil_of_wireShape (wireShape_of_mem_wireOf hbs)) out

theorem wordExpansion_eq (s : State) (w : CommandWord) :
    wordExpansion s w = (if opField w = 0 then linesInit else []) ++ (wordWire s w).flatMap txn :=
  expand_eq_flatMap ..

/-- On a wire ready for the word its expansion shows the word's transactions and leaves the bus idle. -/
theorem idleBus_of_wordExpansion {s t : State} {w : CommandWord} {n : Nat} (hw : WireReady w s)
    (hn : edgesFor false (wordExpansion s w) s.script.tail = some n)
    (h : MicroRun (wordExpansion s w) (s.acceptWord w) t) : IdleBus (s.obs.out ++ wordWire s w) t := by
  rw [wordExpansion_eq] at hn h
  have hwire := idleBus_wordWire s w s.obs.out
  rcases hw with ⟨hpins, hidle⟩ | ⟨hop, hrest, hpull⟩
  · have hlines : Ensures (IdleBus s.obs.out) (if opField w = 0 then linesInit else []) (IdleBus s.obs.out) := by
      split
      · exact idleBus_linesInit _
      · exact .nil _
    have hidleBus : IdleBus s.obs.out (s.acceptWord w) := ⟨hpins, hidle, rfl⟩
    exact hlines.append hwire _ _ hidleBus h
  · rw [if_pos hop] at hn h
    obtain ⟨m, hm⟩ := edgesFor_append_left hn
    have hboot : Booting linesInit (pinsOf s.regs) s.obs.out (s.acceptWord w) := ⟨rfl, hrest, rfl, m, hm, hpull m hm⟩
    exact (booting_linesInit _ _).append hwire _ _ hboot h

/-- Settles O55: the run of the expansion (`run_command`) ends on the idle bus with the word's transactions seen
(`idleBus_of_wordExpansion`), which the receiver has taken (`MicroRun.delivered`). -/
theorem commandSendsItsTransactions : Obligations.CommandSendsItsTransactions := by
  intro s w n hoffered hw htodo
  obtain ⟨t, hrun, hmicro⟩ := run_command hoffered
  obtain ⟨-, -, -, -, -, hn, -⟩ := hoffered
  have hbus := idleBus_of_wordExpansion hw hn hmicro
  have hrx := (hmicro.delivered htodo).rx_of_out hbus.out
  exact ⟨t.complete, hrun, rfl, hbus.pins, hbus.idle, hbus.out, hrx⟩

end Sys2Proof.Machine
end

section
/-! SUPPORT. The family 42_control_commands.md: the control byte (42_control_commands.md R150), the sizes of the control
commands' expansions, the acceptance of each (R151 to R153), and `LINES_INIT` (R154). -/

namespace Sys2Proof.Machine

/-! ### The control byte (R150) -/

theorem ctlByte_eq (en : Bool) (brt : Byte) : ctlByte en brt = (if en then 0x88#8 else 0x80#8) ||| brt := by
  cases en <;> rfl

/-- Outside bits 7 and 3 the control byte is the brightness. -/
theorem ctlByte_getLsbD_of_clear {i : Nat} (h : (0x88#8).getLsbD i = false) (en : Bool) (brt : Byte) :
    (ctlByte en brt).getLsbD i = brt.getLsbD i := by
  have hsplit : (0x80#8).getLsbD i = false ∧ (0x08#8).getLsbD i = false := by
    rwa [show 0x88#8 = 0x80#8 ||| 0x08#8 from rfl, BitVec.getLsbD_or, Bool.or_eq_false_iff] at h
  cases en
  · simp [ctlByte_eq, hsplit.1]
  · simp [ctlByte_eq, h]

theorem ctlByte_getLsbD_three (en : Bool) (brt : Byte) : (ctlByte en brt).getLsbD 3 = (en || brt.getLsbD 3) := by
  cases en <;> simp [ctlByte_eq]

/-- A brightness of at most three bits stands below the bits 7 and 3, so it is added to them. -/
theorem toNat_ctlByte {brt : Byte} (h : brt.toNat ≤ 7) (en : Bool) :
    (ctlByte en brt).toNat = (if en then 0x88 else 0x80) + brt.toNat := by
  have hlow : brt.toNat < 2 ^ 3 := Nat.lt_succ_of_le h
  rw [ctlByte_eq, BitVec.toNat_or]
  cases en
  · exact (Nat.two_pow_add_eq_or_of_lt hlow 0x10).symm
  · exact (Nat.two_pow_add_eq_or_of_lt hlow 0x11).symm

/-- Settles O41: the bits one by one, the value as a sum (`toNat_ctlByte`), and the examples by evaluation. -/
theorem controlByteBits : Obligations.ControlByteBits :=
  ⟨fun en brt => ⟨ctlByte_getLsbD_seven en brt, ctlByte_getLsbD_of_clear rfl en brt, ctlByte_getLsbD_of_clear rfl en brt,
      ctlByte_getLsbD_of_clear rfl en brt, ctlByte_getLsbD_three en brt, ctlByte_getLsbD_of_clear rfl en brt,
      ctlByte_getLsbD_of_clear rfl en brt, ctlByte_getLsbD_of_clear rfl en brt⟩,
    fun en _ h => toNat_ctlByte h en, by decide⟩

/-! ### The commands (R151 to R153) -/

/-- The micro-ops and delays of a transaction of one byte (R139). -/
theorem counts_txn_one (c : Byte) : (txn [c]).length = 34 ∧ (txn [c]).countP MicroOp.isPin = 33 :=
  ⟨length_txn [c], countP_isPin_txn [c]⟩

/-- The four of `LINES_INIT`, each with its delay, come before those of the transaction (R151). -/
theorem counts_linesInit_txn_one (c : Byte) :
    (linesInit ++ txn [c]).length = 38 ∧ (linesInit ++ txn [c]).countP MicroOp.isPin = 37 := by
  obtain ⟨hlen, hpin⟩ := counts_txn_one c
  have hlines : linesInit.length = 4 ∧ linesInit.countP MicroOp.isPin = 4 := ⟨rfl, rfl⟩
  rw [List.length_append, List.countP_append, hlen, hpin, hlines.1, hlines.2]
  exact ⟨rfl, rfl⟩

/-- Settles O14: `EN` and `BRT` are written and the word is accepted, and the expansion is counted. -/
theorem initEffect : Obligations.InitEffect := fun a b s =>
  ⟨((s.setEn (boolOperand a)).setBrt b).accept 0 a b, rfl, rfl, rfl, counts_linesInit_txn_one _⟩

/-- Settles O15: `EN` is written and the word is accepted, and the expansion is counted. -/
theorem enableEffect : Obligations.EnableEffect := fun a b s =>
  ⟨(s.setEn (boolOperand a)).accept 1 a b, rfl, rfl, rfl, counts_txn_one _⟩

/-- Settles O16: `BRT` is written and the word is accepted, and the expansion is counted. -/
theorem setBrightnessEffect : Obligations.SetBrightnessEffect := fun a b s =>
  ⟨(s.setBrt a).accept 2 a b, rfl, rfl, rfl, counts_txn_one _⟩

/-! ### `LINES_INIT` (R154) -/

/-- Pins that no micro-op of a list changes are left by the whole list. -/
theorem pinsAfter_of_write_eq {us : List MicroOp} {p : Pins} (h : ∀ u ∈ us, p.write u = p) : pinsAfter us p = p := by
  induction us with
  | nil => rfl
  | cons u us ih =>
    obtain ⟨hu, hus⟩ := List.forall_mem_cons.mp h
    have hcons : pinsAfter (u :: us) p = pinsAfter us (p.write u) := rfl
    rw [hcons, hu, ih hus]

theorem write_idlePins_of_mem_linesInit : ∀ u ∈ linesInit, idlePins.write u = idlePins := by decide

/-- No line is driven low: each has its enable at 0 or its latch at 1. -/
def NoDrivenLow (p : Pins) : Prop := (p.clkOe = true → p.clkO = true) ∧ (p.dioOe = true → p.dioO = true)

theorem noDrivenLow_reset : NoDrivenLow (pinsOf State.reset.regs) := ⟨fun h => (by cases h), fun h => by cases h⟩

/-- No front part of `LINES_INIT` drives a line low, since each latch is set before its enable; DATA is untouched by the
first two micro-ops. -/
theorem noDrivenLow_take_linesInit {p : Pins} (h : NoDrivenLow p) :
    ∀ n, NoDrivenLow (pinsAfter (linesInit.take n) p)
  | 0 => h
  | 1 => ⟨fun _ => rfl, h.2⟩
  | 2 => ⟨fun _ => rfl, h.2⟩
  | 3 => ⟨fun _ => rfl, fun _ => rfl⟩
  | n + 4 => by
    have hall : linesInit.take (n + 4) = linesInit := List.take_of_length_le (Nat.le_add_left 4 n)
    rw [hall, pinsAfter_linesInit]
    exact ⟨fun _ => rfl, fun _ => rfl⟩

/-- Settles O52: the idle pins are fixed by each of the four micro-ops, and from reset `NoDrivenLow` holds throughout. -/
theorem linesInitMakesIdle : Obligations.LinesInitMakesIdle :=
  ⟨rfl, rfl, rfl, pinsAfter_linesInit,
    fun _ => pinsAfter_of_write_eq fun u hu => write_idlePins_of_mem_linesInit u (List.mem_of_mem_take hu),
    noDrivenLow_take_linesInit noDrivenLow_reset⟩

end Sys2Proof.Machine
end

section
/-! SUPPORT. The family 43_display_commands.md: the operands of the display commands (30_encoding.md R82, R51), the
acceptance of each (43_display_commands.md R161 to R165), and what addressed writes do to the receiver (R160, R164,
20_memory.md R65). -/

namespace Sys2Proof.Machine

/-! ### The operands (R82, R51) -/

theorem toNat_indexOperand (b : Byte) : (indexOperand b).toNat = (b &&& 0x0F).toNat := by
  have hlt : (b &&& 0x0F).toNat < 2 ^ 4 := by
    rw [BitVec.toNat_and]
    exact Nat.lt_succ_of_le Nat.and_le_right
  exact (BitVec.toNat_setWidth ..).trans (Nat.mod_eq_of_lt hlt)

/-- Every index is inside the table of sixteen entries, so no default is read. -/
theorem romRead_eq_getD (prm : Params) (i : BitVec 4) : romRead prm i = prm.segrom.toList.getD i.toNat 0 := by
  have hlt : i.toNat < prm.segrom.toList.length := by
    rw [Vector.length_toList]
    exact i.isLt
  rw [List.getD_eq_getElem _ _ hlt, Vector.getElem_toList]
  rfl

theorem colonPattern_eq (a : Byte) : colonPattern a = if a = 0 then 0x00 else 0xFF := by
  by_cases ha : a = 0
  · rw [if_pos ha, ha]
    rfl
  · rw [if_neg ha]
    exact if_pos (bne_iff_ne.mpr ha)

/-- Masking a digit once more changes nothing. -/
theorem indexOperand_masked (b : Byte) : indexOperand (b &&& 0x0F) = indexOperand b := by
  have hmask : b &&& 0x0F#8 &&& 0x0F#8 = b &&& 0x0F#8 := by rw [BitVec.and_assoc, BitVec.and_self]
  exact congrArg (BitVec.setWidth 4) hmask

/-! ### The commands (R161 to R165) -/

theorem expand_displayDigit (prm : Params) (a b : Byte) (en : Bool) (brt : Byte) :
    expand prm 4 a b en brt = dseg a (romRead prm (indexOperand b)) en brt := rfl

theorem expand_displayColon (prm : Params) (a b : Byte) (en : Bool) (brt : Byte) :
    expand prm 5 a b en brt = dseg 1 (colonPattern a) en brt := rfl

/-- Settles O44: the digit is used only through its masked index (`indexOperand_masked`). -/
theorem digitIsMasked : Obligations.DigitIsMasked := by
  intro prm a b en brt
  rw [expand_displayDigit, expand_displayDigit, indexOperand_masked]

/-- Settles O17: each word is accepted, and the operand of its addressed write is read as the command reads it. -/
theorem displayWriteEffect : Obligations.DisplayWriteEffect := by
  intro a b s
  refine ⟨⟨s.accept 3 a b, rfl, rfl, expand_displaySegments ..⟩, ⟨s.accept 4 a b, rfl, rfl, ?_⟩,
    ⟨s.accept 5 a b, rfl, rfl, ?_⟩⟩
  · rw [← toNat_indexOperand, ← romRead_eq_getD]
    exact expand_displayDigit ..
  · rw [← colonPattern_eq]
    exact expand_displayColon s.params a b ..

/-- Settles O18: the word is accepted, and its expansion is the four addressed writes. -/
theorem clearEffect : Obligations.ClearEffect := fun a b s => ⟨s.accept 6 a b, rfl, rfl, rfl⟩

/-- Settles O19: the word is accepted, and with an empty expansion it is at its end at once (`step_complete`). -/
theorem reservedOpcodeEffect : Obligations.ReservedOpcodeEffect := fun a b s =>
  ⟨s.accept 7 a b, rfl, rfl, rfl, fun hdly hrst => step_complete hrst rfl hdly rfl⟩

/-! ### Addressed writes at the receiver (R160, R164, R65) -/

theorem memRead_memWrite (m : Memory) (p q : Nat) (v : Byte) :
    memRead (memWrite m p v) q = if q = p then some v else memRead m q := by
  split
  case isTrue h => rw [h, memRead_memWrite_same]
  case isFalse h => exact memRead_memWrite_other m v h

/-- The receiver after an addressed write of `v` to position `p` that ends with the control byte `c`. -/
def Receiver.written (rx : Receiver) (p : Nat) (v c : Byte) : Receiver :=
  { rx with disp := memWrite rx.disp p v, mode := some 0x40, ctrl := some c, todo := [], ptr := none }

/-- The three transactions of an addressed write: `MODE`, the position, `CTRL`. -/
theorem takeTxn_dsegWire {rx : Receiver} (hrefused : rx.refused = false) {p : Byte} (hp : p.toNat < 4) (v : Byte)
    {en : Bool} {brt : Byte} (hctl : ctlByte en brt &&& 0x70 = 0) :
    (dsegWire p v en brt).foldl Receiver.takeTxn rx = rx.written p.toNat v (ctlByte en brt) := by
  have hmode := takeTxn_cmdData hrefused
  have haddr := takeTxn_addr (rx := { rx with mode := some 0x40#8, todo := [], ptr := none }) hrefused rfl hp v
  have hctrl := takeTxn_ctl
    (rx := { rx with disp := memWrite rx.disp p.toNat v, mode := some 0x40#8, todo := [], ptr := none })
    hrefused (ctlByte_getLsbD_seven en brt) hctl
  rw [dsegWire, List.foldl_cons, List.foldl_cons, List.foldl_cons, List.foldl_nil, hmode, haddr, hctrl]
  rfl

/-- Addressed writes of one pattern, one after the other: none of them makes the receiver refuse. -/
theorem takeTxn_dsegWires {rx : Receiver} (hrefused : rx.refused = false) {ps : List Byte}
    (hps : ∀ p ∈ ps, p.toNat < 4) (v : Byte) {en : Bool} {brt : Byte} (hctl : ctlByte en brt &&& 0x70 = 0) :
    (ps.flatMap fun p => dsegWire p v en brt).foldl Receiver.takeTxn rx =
      ps.foldl (fun rx p => rx.written p.toNat v (ctlByte en brt)) rx := by
  induction ps generalizing rx with
  | nil => rfl
  | cons p ps ih =>
    obtain ⟨hp, hps⟩ := List.forall_mem_cons.mp hps
    rw [List.flatMap_cons, List.foldl_append, takeTxn_dsegWire hrefused hp v hctl, List.foldl_cons]
    exact ih hrefused hps

/-- The receiver after 0x00 has been written to the positions 0 to 3 in order. -/
def Receiver.blanked (rx : Receiver) (c : Byte) : Receiver :=
  (((rx.written 0 0x00 c).written 1 0x00 c).written 2 0x00 c).written 3 0x00 c

theorem takeTxn_wireOf_clear {rx : Receiver} (hrefused : rx.refused = false) (prm : Params) (a b : Byte) {en : Bool}
    {brt : Byte} (hctl : ctlByte en brt &&& 0x70 = 0) :
    (wireOf prm 6 a b en brt).foldl Receiver.takeTxn rx = rx.blanked (ctlByte en brt) := by
  have hwire : wireOf prm 6 a b en brt = [0x00, 0x01, 0x02, 0x03].flatMap fun p => dsegWire p 0x00 en brt := rfl
  rw [hwire]
  exact takeTxn_dsegWires hrefused (by decide) 0x00 hctl

/-- A position of the display is one of the four written, whatever it held before. -/
theorem memRead_blanked (rx : Receiver) (c : Byte) {p : Nat} (hp : p < 4) :
    memRead (rx.blanked c).disp p = some 0x00 := by
  have hpos : p = 3 ∨ p = 2 ∨ p = 1 ∨ p = 0 := by omega
  simp only [Receiver.blanked, Receiver.written, memRead_memWrite]
  rcases hpos with rfl | rfl | rfl | rfl <;> rfl

/-- Settles O57: the receiver has taken the transactions of the word (`commandSendsItsTransactions`), which blank it
(`takeTxn_wireOf_clear`); a `CLEAR` leaves the held configuration. -/
theorem clearBlanksTheDisplay : Obligations.ClearBlanksTheDisplay := by
  intro s w n hop hoffered hready hrefused htodo hctl
  obtain ⟨t, hrun, hbusy, -, -, -, hrx⟩ := commandSendsItsTransactions s w n hoffered hready htodo
  have hen : acceptedEn w s.regs.en = s.regs.en := acceptedEn_eq_of_ne (by rw [hop]; decide)
  have hbrt : acceptedBrt w s.regs.brt = s.regs.brt := acceptedBrt_eq_of_ne (by rw [hop]; decide)
  rw [hop, hen, hbrt, takeTxn_wireOf_clear hrefused _ _ _ hctl] at hrx
  refine ⟨t, hrun, hbusy, ?_⟩
  rw [hrx]
  exact ⟨hrefused, fun p hp => memRead_blanked s.rx _ hp, rfl, rfl⟩

end Sys2Proof.Machine
end

section
/-! SUPPORT. The family 60_exceptions.md: every step and every instruction answers (60_exceptions.md R180), an answer of
the timer that nothing waits for (R183), and a delay that is never answered (R192). -/

namespace Sys2Proof.Machine

/-! ### Every step answers a next state (R180) -/

theorem exec_answers (i : Instr) (s : State) : ∃ t, exec i s = .next t := by
  rcases instr_cases i s with hi | ⟨u, rfl⟩ | ⟨t, ht, -, -⟩
  · exact ⟨_, exec_wire hi s⟩
  · exact ⟨_, exec_microOp_eq u s⟩
  · exact ⟨t, ht⟩

/-- Only an instruction could fail to answer: every other move is an operation of the state. -/
theorem perform_answers (m : Move) (s : State) : ∃ t, perform m s = .next t := by
  cases m
  case run i => exact exec_answers i s
  all_goals exact ⟨_, rfl⟩

/-- Settles O6: whichever move is next, it answers. -/
theorem neverFaultsNeverRefuses : Obligations.NeverFaultsNeverRefuses :=
  ⟨fun s => perform_answers (nextMove s) s, exec_answers⟩

/-! ### An answer of the timer that nothing waits for (R183) -/

/-- The state with port `dly_done` carrying `d` at the coming edge. -/
def State.withDlyDone (s : State) (d : Bool) : State :=
  { s with script := { s.now with dlyDone := d } :: s.script.tail }

@[simp] theorem withDlyDone_now (s : State) (d : Bool) : (s.withDlyDone d).now = { s.now with dlyDone := d } := rfl
@[simp] theorem withDlyDone_regs (s : State) (d : Bool) : (s.withDlyDone d).regs = s.regs := rfl
@[simp] theorem withDlyDone_params (s : State) (d : Bool) : (s.withDlyDone d).params = s.params := rfl
@[simp] theorem withDlyDone_obs (s : State) (d : Bool) : (s.withDlyDone d).obs = s.obs := rfl
@[simp] theorem withDlyDone_rx (s : State) (d : Bool) : (s.withDlyDone d).rx = s.rx := rfl

theorem withDlyDone_of_script {s : State} {i : Inputs} {l : List Inputs} (h : s.script = i :: l) (d : Bool) :
    s.withDlyDone d = { s with script := { i with dlyDone := d } :: l } := by
  rw [State.withDlyDone, now_of_script h, h, List.tail_cons]

theorem withDlyDone_env (s : State) (d : Bool) : (s.withDlyDone d).env = { s.env with dlyDone := d } := by
  rcases h : s.rx.answers && s.obs.inAckSlot with _ | _ <;>
    simp only [State.env, withDlyDone_rx, withDlyDone_obs, withDlyDone_now, h, Bool.false_eq_true, if_false, if_true]

/-- The timer is on no line (R24, R31). -/
@[simp] theorem withDlyDone_lines (s : State) (d : Bool) (r : Regs) : (s.withDlyDone d).lines r = s.lines r := by
  rw [State.lines, withDlyDone_env]
  rfl

@[simp] theorem withDlyDone_sample (s : State) (d : Bool) : (s.withDlyDone d).sample = s.sample :=
  congrArg Lines.dio (withDlyDone_lines s d s.regs)

theorem pinStep_withDlyDone (s : State) (d : Bool) (u : MicroOp) (r : Regs) :
    (s.withDlyDone d).pinStep u r = s.pinStep u r := by
  simp only [State.pinStep, withDlyDone_lines, withDlyDone_regs]
  rfl

theorem sampleStep_withDlyDone (s : State) (d : Bool) : (s.withDlyDone d).sampleStep = s.sampleStep := by
  simp only [State.sampleStep, withDlyDone_sample, withDlyDone_regs]
  rfl

/-- No instruction reads the timer: a pin micro-op and a sample read the lines, the others read no port. -/
theorem exec_withDlyDone (i : Instr) (s : State) (d : Bool) : exec i (s.withDlyDone d) = exec i s := by
  cases i
  case clkLo | clkHi | dioLo | dioHi | clkOut | dioOut | dioIn =>
    exact congrArg Host.Outcome.next (pinStep_withDlyDone ..)
  case dioRd => exact congrArg Host.Outcome.next (sampleStep_withDlyDone s d)
  all_goals rfl

/-- Once the move is chosen, the timer makes no difference to it. -/
theorem perform_withDlyDone (m : Move) (s : State) (d : Bool) : perform m (s.withDlyDone d) = perform m s := by
  cases m
  case run i => exact exec_withDlyDone i s d
  all_goals rfl

/-- Only a command in progress with a delay running looks at the timer (R120 S2). -/
theorem blockMove_dlyDone {prm : Params} {r : Regs} (i : Inputs) (d : Bool) (h : r.busy = false ∨ r.dly = false) :
    blockMove prm r { i with dlyDone := d } = blockMove prm r i := by
  rcases h with hb | hd
  · simp [blockMove, hb]
  · simp [blockMove, hd]

theorem nextMove_withDlyDone {s : State} (d : Bool) (h : s.regs.busy = false ∨ s.regs.dly = false) :
    nextMove (s.withDlyDone d) = nextMove s := by
  simp only [nextMove, withDlyDone_now, withDlyDone_params, withDlyDone_regs, withDlyDone_rx,
    blockMove_dlyDone s.now d h]

/-- Settles O11: the timer neither chooses the move (`nextMove_withDlyDone`) nor changes what it does
(`perform_withDlyDone`). -/
theorem strayDelayAnswerIgnored : Obligations.StrayDelayAnswerIgnored := by
  intro s s' d l i hidle hscript hs'
  obtain rfl : s' = s.withDlyDone d := hs'.trans (withDlyDone_of_script hscript d).symm
  rw [step, nextMove_withDlyDone d hidle, perform_withDlyDone]
  rfl

/-! ### A delay that is never answered (R192) -/

/-- As long as neither reset nor the timer's answer comes, nothing in the block moves. -/
theorem run_waiting (n : Nat) {s : State} (hb : s.regs.busy = true) (hd : s.regs.dly = true)
    (hn : n ≤ s.script.length) (hquiet : ∀ i ∈ s.script.take n, i.rst = false ∧ i.dlyDone = false) :
    ∃ t, Host.Core.run core n s = .next t ∧ t.regs = s.regs ∧ t.trace = s.trace ∧ t.obs = s.obs := by
  induction n generalizing s with
  | zero => exact ⟨s, rfl, rfl, rfl, rfl⟩
  | succ n ih =>
    rcases hl : s.script with _ | ⟨i, l⟩
    · simp [hl] at hn
    · rw [hl, List.take_succ_cons, List.forall_mem_cons] at hquiet
      obtain ⟨⟨hrst, hdone⟩, hrest⟩ := hquiet
      have hnow := now_of_script hl
      obtain ⟨rx, -, hstep⟩ := step_waiting (by rwa [hnow]) hb hd (by rwa [hnow])
      rw [run_succ n hstep]
      exact ih (s := s.setRx rx) hb hd (by simpa [hl] using hn) (by simpa [hl] using hrest)

theorem step_reset {s : State} (hrst : s.now.rst = true) : step s = .next s.resetBlock := by
  simp [step, nextMove, hrst, perform]

/-- A micro-op of the expansion moves `UPC` on (R29). -/
theorem microStep_regs_ne {s : State} {u : MicroOp} (hlt : s.regs.upc.toNat < (expansion s.params s.regs).length) :
    (s.microStep u).regs ≠ s.regs := by
  intro h
  have hupc : s.regs.upc + 1 = s.regs.upc := by rw [← microStep_upc s u, h]
  have hsucc := toNat_upc_succ hlt
  rw [hupc] at hsucc
  omega

/-- A command in progress that waits for no answer moves: its delay ends, its next micro-op runs, or it completes. -/
theorem step_moves {s : State} (hok : SequencerOk s) (hb : s.regs.busy = true) (hrst : s.now.rst = false)
    (hgo : s.regs.dly = false ∨ s.now.dlyDone = true) : ∃ t, step s = .next t ∧ t.regs ≠ s.regs := by
  rcases hd : s.regs.dly with _ | _
  · rcases (hok.2 hb).lt_or_eq with hlt | hlen
    · exact ⟨_, step_microOp hrst hb hd (List.getElem?_eq_getElem hlt), microStep_regs_ne hlt⟩
    · refine ⟨_, step_complete hrst hb hd hlen, fun h => ?_⟩
      have hbusy : false = s.regs.busy := congrArg Regs.busy h
      simp [hb] at hbusy
  · refine ⟨_, step_delayEnd hrst hb hd (hgo.resolve_left (by simp [hd])), fun h => ?_⟩
    have hdly : false = s.regs.dly := congrArg Regs.dly h
    simp [hd] at hdly

/-- Settles O12: the delay that is not answered is `run_waiting`, its end by reset `step_reset`, and every other state
of a command in progress `step_moves`. -/
theorem unansweredDelayHoldsTheBlock : Obligations.UnansweredDelayHoldsTheBlock := by
  refine ⟨fun n s hb hd hn hquiet => ?_, fun s hrst => ⟨_, step_reset hrst, rfl⟩,
    fun s hok hb hrst hgo => step_moves hok hb hrst hgo⟩
  obtain ⟨t, hrun, hregs, htrace, hobs⟩ := run_waiting n hb hd hn hquiet
  exact ⟨t, hrun, hregs, htrace, hobs, by rw [hregs, cmdReady, hb]; rfl⟩

end Sys2Proof.Machine
end

section
/-! SUPPORT. The family 70_reset_and_hazards.md: a step under reset (70_reset_and_hazards.md R200, R201), and the sizes of
the commands, counted transaction by transaction (R209). -/

namespace Sys2Proof.Machine

/-! ### Reset (R200, R201) -/

/-- Settles O8: under reset the step is `State.resetBlock` whatever the registers and the other ports are
(`step_reset`). -/
theorem resetWins : Obligations.ResetWins := fun _ hrst => step_reset hrst

/-! ### The sizes of a list of transactions (R139) -/

theorem length_txns (txs : List (List Byte)) :
    (txs.flatMap txn).length = 4 * txs.length + 30 * txs.flatten.length := by
  induction txs with
  | nil => rfl
  | cons bs txs ih =>
    simp only [List.flatMap_cons, List.flatten_cons, List.length_append, List.length_cons, length_txn, ih]
    omega

theorem countP_isPin_txns (txs : List (List Byte)) :
    (txs.flatMap txn).countP MicroOp.isPin = 4 * txs.length + 29 * txs.flatten.length := by
  induction txs with
  | nil => rfl
  | cons bs txs ih =>
    simp only [List.flatMap_cons, List.flatten_cons, List.countP_append, List.length_append, List.length_cons,
      countP_isPin_txn, ih]
    omega

theorem count_dioRd_txns (txs : List (List Byte)) : (txs.flatMap txn).count .dioRd = txs.flatten.length := by
  induction txs with
  | nil => rfl
  | cons bs txs ih =>
    rw [List.flatMap_cons, List.flatten_cons, List.count_append, List.length_append, count_dioRd_txn, ih]

/-! ### The sizes of a command (R209) -/

section
variable (prm : Params) (op : BitVec 3) (a b : Byte) (en : Bool) (brt : Byte)

theorem length_wireOf :
    (wireOf prm op a b en brt).length = if op.toNat ≤ 2 then 1 else if op = 6 then 12 else if op = 7 then 0 else 3 := by
  rcases opcode_cases op with rfl | rfl | rfl | rfl | rfl | rfl | rfl | rfl <;> rfl

theorem length_flatten_wireOf :
    (wireOf prm op a b en brt).flatten.length =
      if op.toNat ≤ 2 then 1 else if op = 6 then 16 else if op = 7 then 0 else 4 := by
  rcases opcode_cases op with rfl | rfl | rfl | rfl | rfl | rfl | rfl | rfl <;> rfl

/-- `INIT` has the four micro-ops of `LINES_INIT` more than its transactions. -/
theorem length_expand :
    (expand prm op a b en brt).length =
      (if op = 0 then 4 else 0) +
        (4 * (wireOf prm op a b en brt).length + 30 * (wireOf prm op a b en brt).flatten.length) := by
  rw [expand_eq_flatMap, List.length_append, length_txns, apply_ite List.length]
  rfl

/-- Each of the four micro-ops of `LINES_INIT` has its delay. -/
theorem countP_isPin_expand :
    (expand prm op a b en brt).countP MicroOp.isPin =
      (if op = 0 then 4 else 0) +
        (4 * (wireOf prm op a b en brt).length + 29 * (wireOf prm op a b en brt).flatten.length) := by
  rw [expand_eq_flatMap, List.countP_append, countP_isPin_txns, apply_ite (List.countP MicroOp.isPin)]
  rfl

/-- One sample per byte: `LINES_INIT` has none. -/
theorem count_dioRd_expand :
    (expand prm op a b en brt).count .dioRd = (wireOf prm op a b en brt).flatten.length := by
  have hlines : (if op = 0 then linesInit else []).count .dioRd = 0 := by split <;> rfl
  rw [expand_eq_flatMap, List.count_append, count_dioRd_txns, hlines, Nat.zero_add]

end

/-- Settles O49: the transactions and bytes are those of `wireOf`, opcode by opcode; the micro-ops and delays follow from
them (`length_expand`, `countP_isPin_expand`), and the samples are the bytes (`count_dioRd_expand`). -/
theorem commandDurations : Obligations.CommandDurations := by
  intro prm op a b en brt
  refine ⟨?_, ?_, count_dioRd_expand .., length_flatten_wireOf .., length_wireOf ..⟩
  · rw [length_expand, length_wireOf, length_flatten_wireOf]
    revert op
    decide
  · rw [countP_isPin_expand, length_wireOf, length_flatten_wireOf]
    revert op
    decide

end Sys2Proof.Machine
end
